-- ==== Sys2Proof/Word.lean ====
section
/-! DEFINITION. The words of the block (spec/00_scope.md section 5: all values are unsigned; R8 for the widths). -/

namespace Sys2Proof

/-- An 8-bit byte. -/
abbrev Byte := BitVec 8

/-- A 16-bit word: ACC and a checksum (R8 `CRC_WIDTH`). -/
abbrev Word := BitVec 16

/-- The 10-bit engine command word, op in bits 9:8 and din in bits 7:0 (R8 `CMD_W`, R60). -/
abbrev CommandWord := BitVec 10

/-- The 50-bit operand bundle of `CHECK`, format V (R64). -/
abbrev Bundle := BitVec 50

/-- An 11-bit length output (R8 `LEN_W`). -/
abbrev Len := BitVec 11

/-- The 2-bit transport status (R25 `tstat`). -/
abbrev TStat := BitVec 2

/-- The 2-bit command select (R25 `op`). -/
abbrev Op := BitVec 2

end Sys2Proof
end

