-- ==== Sys2Proof/Config.lean ====
section
/-! DEFINITION. The constants of the block (spec/00_scope.md R8) and the values the spec leaves free. -/

namespace Sys2Proof.Config

/-- R8 `CRC_POLY`. -/
def crcPoly : Word := 0x1021#16

/-- R8 `CRC_INIT`. -/
def crcInit : Word := 0x0000#16

/-- R21, R231: the reset value of ACC. -/
def resetAcc : Word := 0x0000#16

/-- R8 `SMALL_LEN`. -/
def smallLen : Nat := 128

/-- R8 `LARGE_LEN`. -/
def largeLen : Nat := 1024

/-- R8 `PRE_LEN`: header, sequence, complement (spec/90_conflicts.md C1). -/
def preLen : Nat := 3

/-- R8 `TRAILER_LEN`. -/
def trailerLen : Nat := 2

/-- R8 `H_SOH`, the SmallData header (R66). -/
def headerSoh : Byte := 0x01#8

/-- R8 `H_STX`, the LargeData header (R66). -/
def headerStx : Byte := 0x02#8

/-- R8 `H_EOT`, the EndOfTransfer header (R66). -/
def headerEot : Byte := 0x04#8

/-- R8 `H_CAN`, the Cancel header (R66). -/
def headerCan : Byte := 0x18#8

/-- R8 `B_ACK`, R67: sent by the host software only, Unknown as a header. -/
def byteAck : Byte := 0x06#8

/-- R8 `B_NAK`, R67: sent by the host software only, Unknown as a header. -/
def byteNak : Byte := 0x15#8

/-- R8 `B_C`, R67: sent by the host software only, Unknown as a header. -/
def byteProbe : Byte := 0x43#8

/-- R8 `SEQ_SUM`, at the 9 bits of R70. -/
def seqSum : BitVec 9 := 255#9

/-- FREE VALUE (log 6; R21, R234, U5): ACC at power-up, before any Reset or CLR. -/
opaque powerUpAcc : Word

/-- FREE VALUE (log 9; R146, U6): the byte at a missing offset of a short frame whose transport status is not Ok,
by the counter `State.fresh` and the offset. -/
opaque missingByte : Nat → Nat → Byte

/-- FREE VALUE (log 10; R142, U7): a `CHECK` operand that a non-data frame does not define, by the counter
`State.fresh` and the operand's number (0 sequence, 1 complement, 2 crc_hi, 3 crc_lo). -/
opaque absentField : Nat → Nat → Byte

end Sys2Proof.Config
end

