-- ==== Sys2Proof/Machine/Ports.lean ====
section
/-! DEFINITION. The ports of the block (spec/10_state.md R25, R26) and the names of packet kinds, frame formats,
rejection causes and error tags. -/

namespace Sys2Proof

/-- The input ports of R25, as the host drives them. A 1-bit port is a Bool, 1 = true (log 18). -/
structure StepInput where
  rst : Bool
  op : Op
  din : Byte
  hdr : Byte
  tstat : TStat
  seq : Byte
  cmpl : Byte
  expSeq : Byte
  crcHi : Byte
  crcLo : Byte
  deriving DecidableEq, Repr

/-- The output ports of R26. -/
structure StepOutput where
  acc : Word
  ill : Bool
  kind : BitVec 3
  payLen : Len
  remLen : Len
  frameLen : Len
  err : BitVec 5
  accept : Bool
  deriving DecidableEq, Repr

/-- The packet kinds (spec/00_scope.md section 6, R66). -/
inductive Kind where
  | unknown
  | smallData
  | largeData
  | endOfTransfer
  | cancel
  deriving DecidableEq, Repr

/-- The frame formats on the wire (R62, R63). -/
inductive FrameFormat where
  | f128
  | f1024
  | f1
  deriving DecidableEq, Repr

/-- The five rejection causes of `CHECK` (R201). -/
inductive RejectionCause where
  | uart
  | number
  | cmpl
  | crc
  | hdr
  deriving DecidableEq, Repr

/-- The source's optional tags that the block can produce (R127; "flash" is never one of them). -/
inductive SourceTag where
  | uart
  | number
  | crc
  deriving DecidableEq, Repr

/-- The entries of the source's error taxonomy that a rejection corresponds to (R127, R202). -/
inductive Taxonomy where
  | transportTimeout
  | transportFraming
  | sequenceMismatch
  | checksumMismatch
  deriving DecidableEq, Repr

/-- What `VALIDATE_FRAME` takes from a frame after its header (R142). -/
structure FrameFields where
  seq : Byte
  cmpl : Byte
  payload : List Byte
  crc : Word
  deriving DecidableEq, Repr

end Sys2Proof
end

