-- ==== Sys2Proof/Machine/Operands.lean ====
section
/-! DEFINITION. Operand assembly (spec/30_encoding.md R68 to R71) and the functions of the header byte
(spec/41_frame_validator.md R110 to R119). -/

namespace Sys2Proof.Machine

/-- R68: the byte operand of `BYTE` on bits 15:8 of a 16-bit value. -/
def crcOperand (b : Byte) : Word := BitVec.zeroExtend 16 b <<< 8

/-- R69, R45: the received checksum, `crc_hi` in bits 15:8. -/
def checksumReceived (crcHi crcLo : Byte) : Word := crcHi ++ crcLo

/-- R70: the 9-bit sum of the complement check. -/
def complementSum (seq cmpl : Byte) : BitVec 9 := BitVec.zeroExtend 9 seq + BitVec.zeroExtend 9 cmpl

/-- R110, R116: the packet kind of a header byte, compared on all 8 bits. -/
def kindOf (h : Byte) : Kind :=
  if h = Config.headerSoh then .smallData
  else if h = Config.headerStx then .largeData
  else if h = Config.headerEot then .endOfTransfer
  else if h = Config.headerCan then .cancel
  else .unknown

/-- R66, D8: the 3-bit code of a kind on port `kind`. -/
def kindCode : Kind → BitVec 3
  | .unknown => 0#3
  | .smallData => 1#3
  | .largeData => 2#3
  | .endOfTransfer => 3#3
  | .cancel => 4#3

/-- R66: the frame format of a kind; an Unknown header has none. -/
def frameFormat : Kind → Option FrameFormat
  | .unknown => none
  | .smallData => some .f128
  | .largeData => some .f1024
  | .endOfTransfer => some .f1
  | .cancel => some .f1

/-- R110 `is_data`. -/
def isData (h : Byte) : Bool := h == Config.headerSoh || h == Config.headerStx

/-- R117: payload bytes of a kind, as a number. -/
def payBytes : Kind → Nat
  | .smallData => Config.smallLen
  | .largeData => Config.largeLen
  | _ => 0

/-- R71, R118: bytes that follow the header, as a number. -/
def remBytes : Kind → Nat
  | .smallData => Config.smallLen + (Config.preLen - 1) + Config.trailerLen
  | .largeData => Config.largeLen + (Config.preLen - 1) + Config.trailerLen
  | _ => 0

/-- R71, R119: bytes of the whole frame, as a number. -/
def frameBytes : Kind → Nat
  | .smallData => Config.smallLen + Config.preLen + Config.trailerLen
  | .largeData => Config.largeLen + Config.preLen + Config.trailerLen
  | _ => 1

/-- R117: port `pay_len`. -/
def payLen (h : Byte) : Len := BitVec.ofNat 11 (payBytes (kindOf h))

/-- R118: port `rem_len`. -/
def remLen (h : Byte) : Len := BitVec.ofNat 11 (remBytes (kindOf h))

/-- R119: port `frame_len`. -/
def frameLen (h : Byte) : Len := BitVec.ofNat 11 (frameBytes (kindOf h))

/-- R119 `expected_len_src`: the source's own length function, no output of the block (spec/90_conflicts.md C2). -/
def expectedLenSrc (h : Byte) : Len := if isData h then frameLen h else remLen h

end Sys2Proof.Machine
end

