-- ==== Sys2Proof/Syntax.lean ====
section
/-! DEFINITION. The operations of `CRCFV-1` (spec/00_scope.md R3), one constructor for each row of
spec/opcode_table.json. -/

namespace Sys2Proof

/-- One operation. `NOP`, `CLR`, the reserved command and `RESET` have no operand (R94, R95, R97, R230): the level on
`din` is ignored and is no part of them. -/
inductive Instr where
  /-- `NOP` (R94). -/
  | nop
  /-- `CLR` (R95). -/
  | clr
  /-- `BYTE b` (R96). -/
  | byte (b : Byte)
  /-- `.ILL`, the reserved command (R97). -/
  | ill
  /-- `RESET`, the step with rst = 1 (R230). -/
  | reset
  /-- `CLASSIFY` of the SmallData header (R111). -/
  | classifySoh
  /-- `CLASSIFY` of the LargeData header (R112). -/
  | classifyStx
  /-- `CLASSIFY` of the EndOfTransfer header (R113). -/
  | classifyEot
  /-- `CLASSIFY` of the Cancel header (R114). -/
  | classifyCan
  /-- `CLASSIFY` of any other header (R115). -/
  | classifyUnknown (h : Byte)
  /-- `CHECK` (R120), its operands in the order of format V (R64). -/
  | check (tstat : TStat) (seq cmpl expSeq crcHi crcLo hdr : Byte)
  /-- `CRC16 buf` (R140). -/
  | crc16 (buf : List Byte)
  /-- `BYTES buf` (R141). -/
  | bytes (buf : List Byte)
  /-- `VALIDATE_FRAME Frame exp=<e> tstat=<t>` (R142). -/
  | validateFrame (frame : List Byte) (exp : Byte) (tstat : TStat)
  deriving DecidableEq, Repr

end Sys2Proof
end

