-- ==== Sys2Proof/WellFormed.lean ====
section
/-! DEFINITION. Which terms of `Instr` are operations of the spec. -/

namespace Sys2Proof

/-- R146: the frame has all the bytes its header asks for (`frame_len`); an empty frame lacks its header. -/
def frameComplete (frame : List Byte) : Bool :=
  match frame with
  | [] => false
  | h :: _ => decide (Machine.frameBytes (Machine.kindOf h) ≤ frame.length)

/-- The checks of an operation: the Unknown outcome is for a header that is none of the four (R115), and a frame that
is not complete is presented with a transport status other than Ok (R146). Every operand of the others is legal
(R96, U2, U3). -/
def Instr.wellFormed : Instr → Bool
  | .nop => true
  | .clr => true
  | .byte _ => true
  | .ill => true
  | .reset => true
  | .classifySoh => true
  | .classifyStx => true
  | .classifyEot => true
  | .classifyCan => true
  | .classifyUnknown h => h != 0x01#8 && h != 0x02#8 && h != 0x04#8 && h != 0x18#8
  | .check _ _ _ _ _ _ _ => true
  | .crc16 _ => true
  | .bytes _ => true
  | .validateFrame frame _ tstat => tstat != 0#2 || frameComplete frame

end Sys2Proof
end

