-- ==== Sys2Proof/Decode.lean ====
section
/-! DEFINITION. What the host presents, its decoding to an operation, and the encoder
(spec/30_encoding.md R60 to R66, R72, R75, R77). The ports a value is presented on select its format; there is no
instruction fetch (R51). -/

namespace Sys2Proof

/-- One thing the host presents: a command stream's statement (R76) in its encoded form, or all the ports at once. -/
inductive Presented where
  /-- Formats E and R: one engine step, `rst` beside the command word (R60). -/
  | command (rst : Bool) (cw : CommandWord)
  /-- One engine step with every input port driven at once (R29 `StepInput`). -/
  | inputs (i : StepInput)
  /-- Format H: a header byte to classify (R61). -/
  | header (h : Byte)
  /-- Format V: the operand bundle of `CHECK` (R64). -/
  | bundle (v : Bundle)
  /-- The pseudo-operation `CRC16`; no bit pattern (R60, R77). -/
  | crc16 (buf : List Byte)
  /-- The pseudo-operation `BYTES`; no bit pattern (R60, R77). -/
  | bytes (buf : List Byte)
  /-- The pseudo-operation `VALIDATE_FRAME`; no bit pattern (R60, R77). -/
  | validateFrame (frame : List Byte) (exp : Byte) (tstat : TStat)
  deriving DecidableEq, Repr

/-- The formats that have a bit pattern, as opcode_table.json names them (R60, R61, R64). -/
inductive Format where
  | e
  | r
  | h
  | v
  deriving DecidableEq, Repr

/-- Why a number is no encoded operation. -/
inductive Reject where
  /-- The number has a bit above the format's width. -/
  | tooWide (f : Format) (n : Nat)
  /-- Format R is the single bit rst = 1 (R60). -/
  | notReset
  /-- No format has this many bits. -/
  | noSuchWidth (nbits : Nat)
  deriving DecidableEq, Repr

/-- R60: `op`, bits 9:8 of the command word. -/
def commandOp (cw : CommandWord) : Op := cw.extractLsb' 8 2

/-- R60: `din`, bits 7:0 of the command word. -/
def commandDin (cw : CommandWord) : Byte := cw.extractLsb' 0 8

/-- R60: the command word `{op, din}`. -/
def commandWord (op : Op) (din : Byte) : CommandWord := op ++ din

/-- R64: `tstat`, bits 49:48. -/
def bundleTstat (v : Bundle) : TStat := v.extractLsb' 48 2

/-- R64: `seq`, bits 47:40. -/
def bundleSeq (v : Bundle) : Byte := v.extractLsb' 40 8

/-- R64: `cmpl`, bits 39:32. -/
def bundleCmpl (v : Bundle) : Byte := v.extractLsb' 32 8

/-- R64: `exp_seq`, bits 31:24. -/
def bundleExpSeq (v : Bundle) : Byte := v.extractLsb' 24 8

/-- R64: `crc_hi`, bits 23:16. -/
def bundleCrcHi (v : Bundle) : Byte := v.extractLsb' 16 8

/-- R64: `crc_lo`, bits 15:8. -/
def bundleCrcLo (v : Bundle) : Byte := v.extractLsb' 8 8

/-- R64: `hdr`, bits 7:0. -/
def bundleHdr (v : Bundle) : Byte := v.extractLsb' 0 8

/-- R64: the packing `{tstat, seq, cmpl, exp_seq, crc_hi, crc_lo, hdr}`. -/
def bundleWord (tstat : TStat) (seq cmpl expSeq crcHi crcLo hdr : Byte) : Bundle :=
  tstat ++ seq ++ cmpl ++ expSeq ++ crcHi ++ crcLo ++ hdr

/-- R65, R230: the operation of one engine step; `rst` overrides `op`. -/
def decodeCommand (rst : Bool) (op : Op) (din : Byte) : Instr :=
  if rst then .reset
  else if op = 0b00#2 then .nop
  else if op = 0b01#2 then .clr
  else if op = 0b10#2 then .byte din
  else .ill

/-- R66: the outcome of a header byte; Unknown is the last arm. -/
def decodeHeader (h : Byte) : Instr :=
  match Machine.kindOf h with
  | .smallData => .classifySoh
  | .largeData => .classifyStx
  | .endOfTransfer => .classifyEot
  | .cancel => .classifyCan
  | .unknown => .classifyUnknown h

/-- R64: the operands of `CHECK`. -/
def decodeBundle (v : Bundle) : Instr :=
  .check (bundleTstat v) (bundleSeq v) (bundleCmpl v) (bundleExpSeq v) (bundleCrcHi v) (bundleCrcLo v) (bundleHdr v)

/-- Decoding what the host presents: every value of every port is an operation (R72, U2, U3). -/
def decode : Presented → Instr
  | .command rst cw => decodeCommand rst (commandOp cw) (commandDin cw)
  | .inputs i => decodeCommand i.rst i.op i.din
  | .header h => decodeHeader h
  | .bundle v => decodeBundle v
  | .crc16 buf => .crc16 buf
  | .bytes buf => .bytes buf
  | .validateFrame frame exp tstat => .validateFrame frame exp tstat

/-- R60, R61, R64: a number written in a format, as what it presents on the ports; total, refusing by name. Format R is
the single bit rst = 1 and names no level for `op` and `din` (R230, U4: any value); both at 0 beside it are the model's
choice (DESIGN CHOICE, log 22). -/
def presentNumber (f : Format) (n : Nat) : Except Reject Presented :=
  match f with
  | .e => if n < 2 ^ 10 then .ok (.command false (BitVec.ofNat 10 n)) else .error (.tooWide .e n)
  | .r => if n = 1 then .ok (.command true 0#10) else if n = 0 then .error .notReset else .error (.tooWide .r n)
  | .h => if n < 2 ^ 8 then .ok (.header (BitVec.ofNat 8 n)) else .error (.tooWide .h n)
  | .v => if n < 2 ^ 50 then .ok (.bundle (BitVec.ofNat 50 n)) else .error (.tooWide .v n)

/-- The operation a number written in a format stands for; total, refusing by name. -/
def decodeNumber (f : Format) (n : Nat) : Except Reject Instr := (presentNumber f n).map decode

/-- The encoder: the canonical form of an operation (R65, D7: bits the hardware ignores are zero). The
pseudo-operations have no bit pattern and are presented as they stand (R60). That a RESET presents `op` at 0 is the
model's choice (DESIGN CHOICE, log 22). -/
def encode : Instr → Presented
  | .nop => .command false 0x000#10
  | .clr => .command false 0x100#10
  | .byte b => .command false (commandWord 0b10#2 b)
  | .ill => .command false 0x300#10
  | .reset => .command true 0x000#10
  | .classifySoh => .header 0x01#8
  | .classifyStx => .header 0x02#8
  | .classifyEot => .header 0x04#8
  | .classifyCan => .header 0x18#8
  | .classifyUnknown h => .header h
  | .check tstat seq cmpl expSeq crcHi crcLo hdr => .bundle (bundleWord tstat seq cmpl expSeq crcHi crcLo hdr)
  | .crc16 buf => .crc16 buf
  | .bytes buf => .bytes buf
  | .validateFrame frame exp tstat => .validateFrame frame exp tstat

/-- The format of a row of opcode_table.json by its width, the width rounded up to whole bytes (log 13): 10 or 16 bits
format E, 1 bit format R, 8 bits format H, 50 or 56 bits format V. -/
def formatOfWidth (nbits : Nat) : Except Reject Format :=
  match nbits with
  | 1 => .ok .r
  | 8 => .ok .h
  | 10 => .ok .e
  | 16 => .ok .e
  | 50 => .ok .v
  | 56 => .ok .v
  | n => .error (.noSuchWidth n)

/-- What a word of opcode_table.json presents on the ports. -/
def presentTableWord (nbits w : Nat) : Except Reject Presented :=
  match formatOfWidth nbits with
  | .ok f => presentNumber f w
  | .error r => .error r

/-- The operation the decoder reads from a word of opcode_table.json. -/
def decodeTableWord (nbits w : Nat) : Option Instr :=
  match presentTableWord nbits w with
  | .ok p => some (decode p)
  | .error _ => none

end Sys2Proof
end

