-- ==== Sys2Proof/Machine/Flags.lean ====
section
/-! DEFINITION. The outputs of the block: the rejection flags (spec/41_frame_validator.md R120 to R127), `ill`, and
all output ports as one combinational function of ACC and the input ports (spec/10_state.md R26, R27). -/

namespace Sys2Proof.Machine

/-- R121 `E_UART`. -/
def errUart (tstat : TStat) : Bool := tstat != 0b00#2

/-- R122 `E_NUMBER`. -/
def errNumber (seq expSeq : Byte) : Bool := seq != expSeq

/-- R123 `E_CMPL`. -/
def errCmpl (seq cmpl : Byte) : Bool := complementSum seq cmpl != Config.seqSum

/-- R124 `E_CRC`: the received checksum against ACC. -/
def errCrc (crcHi crcLo : Byte) (acc : Word) : Bool := checksumReceived crcHi crcLo != acc

/-- R125 `E_HDR`. -/
def errHdr (hdr : Byte) : Bool := !isData hdr

/-- R201: whether a cause holds of ACC and the ports, each computed from its own operands (R204). -/
def causeHolds (acc : Word) (i : StepInput) : RejectionCause → Bool
  | .uart => errUart i.tstat
  | .number => errNumber i.seq i.expSeq
  | .cmpl => errCmpl i.seq i.cmpl
  | .crc => errCrc i.crcHi i.crcLo acc
  | .hdr => errHdr i.hdr

/-- R201: a cause's code, its bit position in `err`. -/
def causeBit : RejectionCause → Nat
  | .uart => 0
  | .number => 1
  | .cmpl => 2
  | .crc => 3
  | .hdr => 4

/-- R120: `err[4:0]`, written bit 4 first. -/
def errBits (acc : Word) (i : StepInput) : BitVec 5 :=
  BitVec.ofBool (causeHolds acc i .hdr) ++ BitVec.ofBool (causeHolds acc i .crc) ++
    BitVec.ofBool (causeHolds acc i .cmpl) ++ BitVec.ofBool (causeHolds acc i .number) ++
    BitVec.ofBool (causeHolds acc i .uart)

/-- R26, R97, R230: `ill` is 1 iff rst = 0 and op = 0b11. -/
def illOf (i : StepInput) : Bool := !i.rst && i.op == 0b11#2

/-- R26: every output port, from ACC before the step and the inputs. -/
def outputs (acc : Word) (i : StepInput) : StepOutput where
  acc := acc
  ill := illOf i
  kind := kindCode (kindOf i.hdr)
  payLen := payLen i.hdr
  remLen := remLen i.hdr
  frameLen := frameLen i.hdr
  err := errBits acc i
  accept := errBits acc i == 0b00000#5

/-- R127: the source's tag for a cause; the header check has none. -/
def sourceTag : RejectionCause → Option SourceTag
  | .uart => some .uart
  | .number => some .number
  | .cmpl => some .number
  | .crc => some .crc
  | .hdr => none

/-- R127, D23: the taxonomy entry for a cause, by the transport status. -/
def taxonomy (tstat : TStat) : RejectionCause → Option Taxonomy
  | .uart => if tstat = 0b01#2 then some .transportTimeout else some .transportFraming
  | .number => some .sequenceMismatch
  | .cmpl => some .sequenceMismatch
  | .crc => some .checksumMismatch
  | .hdr => none

/-- R204: every cause whose bit is set in `err`, in the order of the codes. -/
def causesOf (err : BitVec 5) : List RejectionCause :=
  [.uart, .number, .cmpl, .crc, .hdr].filter fun c => err.getLsbD (causeBit c)

end Sys2Proof.Machine
end

