-- ==== Sys2Proof/Machine/State.lean ====
section
/-! DEFINITION. The state of the machine (spec/10_state.md), its faults and refusals, and the state after reset. -/

namespace Sys2Proof.Machine

/-- The block's one register and, around it, what the host drives, reads and has yet to present. -/
structure State where
  /-- ACC, the whole architectural state of the block (R5, R20). -/
  acc : Word
  /-- The levels on the input ports (R25), driven by the host and held until it drives them again (log 3). -/
  input : StepInput
  /-- The output ports (R26) as the host read them in the last step or query (log 4); nothing of the block reads it
  (R27). -/
  output : StepOutput
  /-- The MODEL's own: what the host has yet to present, the next first (R4, R234, log 1). -/
  queue : List Presented
  /-- The MODEL's own: how many engine steps have been taken, the index of the next (R200, log 5). -/
  steps : Nat
  /-- The MODEL's own: the counter the free bytes of `VALIDATE_FRAME` are drawn with (log 15). -/
  fresh : Nat
  deriving DecidableEq, Repr

/-- The one fault of the block (R200). -/
inductive Fault where
  /-- Raised by the reserved command (R97, R200): the command word `{op, din}`, the index of the step in the run, and
  the state the hardware is left in, ACC held and `ill` = 1 read (R97, R208, log 7). Safe: the model stops where the
  hardware goes on. -/
  | illegalCommand (cw : CommandWord) (index : Nat) (held : State)
  deriving DecidableEq, Repr

/-- Why the model has no next state. -/
inductive Refusal where
  /-- An operation the model gives no meaning; raised by no arm of `exec` now. Safe. -/
  | notModelled (mnemonic : String)
  /-- Raised by `step` when the host presents nothing: the run has ended (R235, log 2). Safe. -/
  | noStepPresented
  /-- Raised by `MemRead` beyond a frame of this length whose transport status is Ok (R146, log 11). Safe. -/
  | frameTooShort (length : Nat)
  /-- Raised by `MemRead` at this offset, 1 or above, of a control frame (R44, log 16). Safe. -/
  | controlFrameOffset (off : Nat)
  deriving DecidableEq, Repr

/-- Every input port at 0: the host drives nothing yet (DESIGN CHOICE, log 3). -/
def idleInput : StepInput where
  rst := false
  op := 0#2
  din := 0#8
  hdr := 0#8
  tstat := 0#2
  seq := 0#8
  cmpl := 0#8
  expSeq := 0#8
  crcHi := 0#8
  crcLo := 0#8

/-- R230, R231: the machine right after reset. ACC is the spec's value; the ports and the model's own fields are named
in the log (3, 4, 1, 5, 15). -/
def State.reset : State where
  acc := Config.resetAcc
  input := idleInput
  output := outputs Config.resetAcc idleInput
  queue := []
  steps := 0
  fresh := 0

/-- R21, R234, U5: the machine at power-up, before any Reset or CLR; ACC is a free value (log 6). -/
def State.powerUp : State where
  acc := Config.powerUpAcc
  input := idleInput
  output := outputs Config.powerUpAcc idleInput
  queue := []
  steps := 0
  fresh := 0

end Sys2Proof.Machine
end

