-- ==== Sys2Proof/Machine/Ops.lean ====
section
/-! DEFINITION. The shared operations: the checksum functions (spec/40_crc_engine.md R90 to R93), driving the ports,
sampling the outputs, taking an engine step, raising the fault, and reading a frame (spec/20_memory.md R41, R44). -/

namespace Sys2Proof.Machine

/-- R90 `crc_round`: bit 15 is tested before the shift. -/
def crcRound (a : Word) : Word :=
  if a.getLsbD 15 then (a <<< 1) ^^^ Config.crcPoly else a <<< 1

/-- R91 `crc_byte`: one XOR of the byte, then exactly eight rounds. -/
def crcByte (a : Word) (b : Byte) : Word :=
  let a0 := a ^^^ crcOperand b
  crcRound (crcRound (crcRound (crcRound (crcRound (crcRound (crcRound (crcRound a0)))))))

/-- R93 `crc_fold`: the accumulator after a sequence of bytes. -/
def crcFold (a : Word) : List Byte → Word
  | [] => a
  | b :: s => crcFold (crcByte a b) s

/-- R92 `crc16`: the first `length` bytes of the buffer, from 0x0000. -/
def crc16 (buffer : List Byte) (length : Nat) : Word := crcFold Config.crcInit (buffer.take length)

/-- R94 to R97, R230: ACC after a step with these inputs, as the hardware has it (a reserved command holds it). -/
def nextAcc (acc : Word) (i : StepInput) : Word :=
  if i.rst then Config.resetAcc
  else if i.op = 0b01#2 then Config.crcInit
  else if i.op = 0b10#2 then crcByte acc i.din
  else acc

/-- R29: the block's step, on ACC and a `StepInput`: the new ACC, and the outputs from the ACC before. -/
def blockStep (acc : Word) (i : StepInput) : Word × StepOutput := (nextAcc acc i, outputs acc i)

/-- R60: the host drives an engine command, rst = 0. -/
def driveCommand (op : Op) (din : Byte) (s : State) : State :=
  { s with input := { s.input with rst := false, op := op, din := din } }

/-- R230: the host drives rst = 1; op and din stay. -/
def driveReset (s : State) : State := { s with input := { s.input with rst := true } }

/-- R61: the host drives the header byte. -/
def driveHeader (h : Byte) (s : State) : State := { s with input := { s.input with hdr := h } }

/-- R64: the host drives the operands of `CHECK`. -/
def driveCheck (tstat : TStat) (seq cmpl expSeq crcHi crcLo hdr : Byte) (s : State) : State :=
  { s with
    input :=
      { s.input with
        tstat := tstat, seq := seq, cmpl := cmpl, expSeq := expSeq, crcHi := crcHi, crcLo := crcLo, hdr := hdr } }

/-- The ports that a presented value drives, the bits the hardware ignores among them (U4); a pseudo-operation is no
value on a port. -/
def drive : Presented → State → State
  | .command rst cw, s =>
    { s with input := { s.input with rst := rst, op := commandOp cw, din := commandDin cw } }
  | .inputs i, s => { s with input := i }
  | .header h, s => driveHeader h s
  | .bundle v, s =>
    driveCheck (bundleTstat v) (bundleSeq v) (bundleCmpl v) (bundleExpSeq v) (bundleCrcHi v) (bundleCrcLo v)
      (bundleHdr v) s
  | .crc16 _, s => s
  | .bytes _, s => s
  | .validateFrame _ _ _, s => s

/-- R76, R128: a query, the outputs read in the state reached so far; no step of the engine. -/
def sample (s : State) : State := { s with output := outputs s.acc s.input }

/-- R26, R49: one engine step: the outputs are read from the ACC before it, then ACC takes its new value. -/
def commitStep (acc : Word) (s : State) : State := { sample s with acc := acc, steps := s.steps + 1 }

/-- R95: the `CLR` step, with this level on `din`. -/
def clearStep (din : Byte) (s : State) : State := commitStep Config.crcInit (driveCommand 0b01#2 din s)

/-- R96: the `BYTE b` step. -/
def absorbStep (b : Byte) (s : State) : State := commitStep (crcByte s.acc b) (driveCommand 0b10#2 b s)

/-- R141: one `BYTE` step for each byte in order. -/
def absorbAll : List Byte → State → State
  | [], s => s
  | b :: bs, s => absorbAll bs (absorbStep b s)

/-- R110: `CLASSIFY h`, the header driven and the outputs read. -/
def classify (h : Byte) (s : State) : State := sample (driveHeader h s)

/-- R120: `CHECK`, the operands driven and the outputs read. -/
def runCheck (tstat : TStat) (seq cmpl expSeq crcHi crcLo hdr : Byte) (s : State) : State :=
  sample (driveCheck tstat seq cmpl expSeq crcHi crcLo hdr s)

/-- R97, R200 `raise IllegalCommand({op, din})`: taking the one fault of the block. ACC is held, `ill` = 1 is read in
the step, nothing is latched, and the run is not continued. -/
def raiseIllegalCommand (s : State) : Host.Outcome State Fault Refusal :=
  .fault (.illegalCommand (commandWord s.input.op s.input.din) s.steps (commitStep s.acc s))

/-- R146: the byte at an offset of the frame; beyond its end refused when the transport status is Ok, a free byte
otherwise (log 9, log 11). -/
def frameByte (frame : List Byte) (tstat : TStat) (fresh off : Nat) : Except Refusal Byte :=
  match frame[off]? with
  | some b => .ok b
  | none => if tstat = 0b00#2 then .error (.frameTooShort frame.length) else .ok (Config.missingByte fresh off)

/-- R41 `MemRead(off, 1)`; at offset 1 or above of a frame whose header is no data header refused (R44, log 16). -/
def memRead1 (frame : List Byte) (tstat : TStat) (fresh off : Nat) : Except Refusal Byte :=
  match frameByte frame tstat fresh 0 with
  | .error r => .error r
  | .ok h =>
    if off = 0 then .ok h
    else if isData h then frameByte frame tstat fresh off
    else .error (.controlFrameOffset off)

/-- R41, R45 `MemRead(off, 2)`: two byte reads, the lower offset in bits 15:8. -/
def memRead2 (frame : List Byte) (tstat : TStat) (fresh off : Nat) : Except Refusal Word :=
  match memRead1 frame tstat fresh off, memRead1 frame tstat fresh (off + 1) with
  | .ok hi, .ok lo => .ok (checksumReceived hi lo)
  | .error r, _ => .error r
  | .ok _, .error r => .error r

/-- R41: the bytes at `n` offsets of the frame from `off` on, in ascending order. -/
def memReadRun (frame : List Byte) (tstat : TStat) (fresh : Nat) : (off n : Nat) → Except Refusal (List Byte)
  | _, 0 => .ok []
  | off, n + 1 =>
    match memRead1 frame tstat fresh off, memReadRun frame tstat fresh (off + 1) n with
    | .ok b, .ok bs => .ok (b :: bs)
    | .error r, _ => .error r
    | .ok _, .error r => .error r

end Sys2Proof.Machine
end

