-- ==== Sys2Proof/Machine/Engine.lean ====
section
/-! DEFINITION. The engine's commands and the `Reset` step (spec/40_crc_engine.md R94 to R97, spec/70 R230). -/

namespace Sys2Proof.Machine

/-- `NOP` (R94): ACC is kept; any level on `din`. -/
def execNop (s : State) : Host.Outcome State Fault Refusal :=
  .next (commitStep s.acc (driveCommand 0b00#2 s.input.din s))

/-- `CLR` (R95): ACC takes 0x0000; any level on `din`. -/
def execClr (s : State) : Host.Outcome State Fault Refusal := .next (clearStep s.input.din s)

/-- `BYTE b` (R96): ACC takes crc_byte(ACC, b), all eight rounds in the step. -/
def execByte (b : Byte) (s : State) : Host.Outcome State Fault Refusal := .next (absorbStep b s)

/-- The reserved command (R97): ACC is held, `ill` is 1, and the fault IllegalCommand is raised. -/
def execIll (s : State) : Host.Outcome State Fault Refusal :=
  raiseIllegalCommand (driveCommand 0b11#2 s.input.din s)

/-- `RESET` (R230): ACC takes 0x0000 whatever op and din are, and `ill` is 0. -/
def execReset (s : State) : Host.Outcome State Fault Refusal :=
  .next (commitStep Config.resetAcc (driveReset s))

end Sys2Proof.Machine
end

