-- ==== Sys2Proof/Machine/Pseudo.lean ====
section
/-! DEFINITION. The pseudo-operations (spec/42_composite_ops.md), each its expansion into the block's operations, taken
in one step of the model (log 12). -/

namespace Sys2Proof.Machine

/-- `CRC16 buf` (R140): `CLR` in its canonical word, then one `BYTE` for each byte. -/
def execCrc16 (buf : List Byte) (s : State) : Host.Outcome State Fault Refusal :=
  .next (absorbAll buf (clearStep 0x00#8 s))

/-- `BYTES buf` (R141): the same without the `CLR`. -/
def execBytes (buf : List Byte) (s : State) : Host.Outcome State Fault Refusal := .next (absorbAll buf s)

/-- R142: the fields of a data frame with `n` payload bytes: payload, sequence, complement and trailer. -/
def dataFields (frame : List Byte) (tstat : TStat) (fresh n : Nat) : Except Refusal FrameFields :=
  match memReadRun frame tstat fresh Config.preLen n, memRead1 frame tstat fresh 1, memRead1 frame tstat fresh 2,
      memRead2 frame tstat fresh (n + 3) with
  | .ok payload, .ok seq, .ok cmpl, .ok crc => .ok { seq := seq, cmpl := cmpl, payload := payload, crc := crc }
  | .error r, _, _, _ => .error r
  | .ok _, .error r, _, _ => .error r
  | .ok _, .ok _, .error r, _ => .error r
  | .ok _, .ok _, .ok _, .error r => .error r

/-- The free bytes of this draw are spent, so that a later frame draws others (log 15). -/
def spendFresh (s : State) : State := { s with fresh := s.fresh + 1 }

/-- R142, the data branch: `CRC16` of the payload, then `CHECK` on the frame's fields. -/
def validateData (f : FrameFields) (h exp : Byte) (tstat : TStat) (s : State) : State :=
  runCheck tstat f.seq f.cmpl exp (f.crc.extractLsb' 8 8) (f.crc.extractLsb' 0 8) h
    (absorbAll f.payload (clearStep 0x00#8 s))

/-- R142, R145, the other branch: `CHECK` with hdr = h; the fields that such a frame does not have are free (U7,
log 10). -/
def validateControl (h exp : Byte) (tstat : TStat) (s : State) : State :=
  runCheck tstat (Config.absentField s.fresh 0) (Config.absentField s.fresh 1) exp (Config.absentField s.fresh 2)
    (Config.absentField s.fresh 3) h s

/-- `VALIDATE_FRAME Frame exp=<e> tstat=<t>` (R142 to R146): `CLASSIFY` of the header, then by its kind. -/
def execValidateFrame (frame : List Byte) (exp : Byte) (tstat : TStat) (s : State) :
    Host.Outcome State Fault Refusal :=
  match memRead1 frame tstat s.fresh 0 with
  | .error r => .refused r
  | .ok h =>
    if isData h then
      match dataFields frame tstat s.fresh (payLen h).toNat with
      | .error r => .refused r
      | .ok f =>
        if frameComplete frame then .next (validateData f h exp tstat (classify h s))
        else .next (spendFresh (validateData f h exp tstat (classify h s)))
    else .next (spendFresh (validateControl h exp tstat (classify h s)))

/-- The byte of a frame at an offset, a free byte where the frame has none (R146). -/
def suppliedByte (frame : List Byte) (fresh off : Nat) : Byte := frame.getD off (Config.missingByte fresh off)

/-- R77, R142: what the host presents for a frame: its header, then for a data kind `CLR`, the payload's `BYTE`s in
ascending offset and the `CHECK`; for any other kind the `CHECK` with the header alone, its other fields free. -/
def expandFrame (frame : List Byte) (exp : Byte) (tstat : TStat) (fresh : Nat) : List Presented :=
  let at' := suppliedByte frame fresh
  let h := at' 0
  let n := payBytes (kindOf h)
  if isData h then
    encode (decodeHeader h) :: encode .clr ::
      ((List.range n).map (fun k => encode (.byte (at' (Config.preLen + k)))) ++
        [encode (.check tstat (at' 1) (at' 2) exp (at' (n + 3)) (at' (n + 4)) h)])
  else
    [encode (decodeHeader h),
      encode (.check tstat (Config.absentField fresh 0) (Config.absentField fresh 1) exp (Config.absentField fresh 2)
        (Config.absentField fresh 3) h)]

/-- R77: the expansion of a pseudo-operation into what the host presents; any other operation is its own. `fresh`
picks the free bytes of a frame, as `State.fresh` does in its meaning. -/
def expand (fresh : Nat) : Instr → List Presented
  | .crc16 buf => encode .clr :: buf.map fun b => encode (.byte b)
  | .bytes buf => buf.map fun b => encode (.byte b)
  | .validateFrame frame exp tstat => expandFrame frame exp tstat fresh
  | .nop => [encode .nop]
  | .clr => [encode .clr]
  | .byte b => [encode (.byte b)]
  | .ill => [encode .ill]
  | .reset => [encode .reset]
  | .classifySoh => [encode .classifySoh]
  | .classifyStx => [encode .classifyStx]
  | .classifyEot => [encode .classifyEot]
  | .classifyCan => [encode .classifyCan]
  | .classifyUnknown h => [encode (.classifyUnknown h)]
  | .check tstat seq cmpl expSeq crcHi crcLo hdr => [encode (.check tstat seq cmpl expSeq crcHi crcLo hdr)]

end Sys2Proof.Machine
end

