-- ==== Sys2Proof/Machine/Validator.lean ====
section
/-! DEFINITION. The validator's queries (spec/41_frame_validator.md): no engine step, no state of the block written. -/

namespace Sys2Proof.Machine

/-- `CLASSIFY` outcome SOH (R111). -/
def execClassifySoh (s : State) : Host.Outcome State Fault Refusal := .next (classify Config.headerSoh s)

/-- `CLASSIFY` outcome STX (R112). -/
def execClassifyStx (s : State) : Host.Outcome State Fault Refusal := .next (classify Config.headerStx s)

/-- `CLASSIFY` outcome EOT (R113). -/
def execClassifyEot (s : State) : Host.Outcome State Fault Refusal := .next (classify Config.headerEot s)

/-- `CLASSIFY` outcome CAN (R114). -/
def execClassifyCan (s : State) : Host.Outcome State Fault Refusal := .next (classify Config.headerCan s)

/-- `CLASSIFY` outcome Unknown (R115). -/
def execClassifyUnknown (h : Byte) (s : State) : Host.Outcome State Fault Refusal := .next (classify h s)

/-- `CHECK` (R120): the checks on the operands and on ACC as it stands. -/
def execCheck (tstat : TStat) (seq cmpl expSeq crcHi crcLo hdr : Byte) (s : State) :
    Host.Outcome State Fault Refusal :=
  .next (runCheck tstat seq cmpl expSeq crcHi crcLo hdr s)

end Sys2Proof.Machine
end

