-- ==== Sys2Proof/Machine/Dispatch.lean ====
section
/-! DEFINITION. The dispatch: one arm per constructor of `Instr`. -/

namespace Sys2Proof.Machine

def exec (i : Instr) (s : State) : Host.Outcome State Fault Refusal :=
  match i with
  | .nop => Sys2Proof.Machine.execNop s
  | .clr => Sys2Proof.Machine.execClr s
  | .byte b => Sys2Proof.Machine.execByte b s
  | .ill => Sys2Proof.Machine.execIll s
  | .reset => Sys2Proof.Machine.execReset s
  | .classifySoh => Sys2Proof.Machine.execClassifySoh s
  | .classifyStx => Sys2Proof.Machine.execClassifyStx s
  | .classifyEot => Sys2Proof.Machine.execClassifyEot s
  | .classifyCan => Sys2Proof.Machine.execClassifyCan s
  | .classifyUnknown h => Sys2Proof.Machine.execClassifyUnknown h s
  | .check tstat seq cmpl expSeq crcHi crcLo hdr => Sys2Proof.Machine.execCheck tstat seq cmpl expSeq crcHi crcLo hdr s
  | .crc16 buf => Sys2Proof.Machine.execCrc16 buf s
  | .bytes buf => Sys2Proof.Machine.execBytes buf s
  | .validateFrame frame exp tstat => Sys2Proof.Machine.execValidateFrame frame exp tstat s

end Sys2Proof.Machine
end

