-- ==== Sys2Proof/Machine/Step.lean ====
section
/-! DEFINITION. One step of the machine: the host presents the next of its queue (spec/00_scope.md R4). -/

namespace Sys2Proof.Machine

/-- The host presents the next value of its queue: the ports take it, and the operation it encodes runs. With nothing
to present there is no step (R235, log 2). -/
def step (s : State) : Host.Outcome State Fault Refusal :=
  match s.queue with
  | [] => .refused .noStepPresented
  | p :: rest => exec (decode p) (drive p { s with queue := rest })

/-- The state in which the host's next presentation is this word of opcode_table.json. There is no memory to store it
in (R51, log 1); a number that encodes nothing leaves nothing to present. -/
def State.withFetchWord (s : State) (nbits w : Nat) : State :=
  match presentTableWord nbits w with
  | .ok p => { s with queue := p :: s.queue }
  | .error _ => { s with queue := [] }

end Sys2Proof.Machine
end

