-- ==== Sys2Proof/Machine/Assembly.lean ====
section
/-! DEFINITION. The notation of command streams (spec/30_encoding.md R76, R77): the table's mnemonic of an operation,
its row's match and mask, and its statement as text (log 21). -/

namespace Sys2Proof.Machine

/-- The mnemonic of an operation's row in spec/opcode_table.json. -/
def mnemonic : Instr → String
  | .nop => "NOP"
  | .clr => "CLR"
  | .byte _ => "BYTE"
  | .ill => ".ILL"
  | .reset => "RESET"
  | .classifySoh => "CLASSIFY.SOH"
  | .classifyStx => "CLASSIFY.STX"
  | .classifyEot => "CLASSIFY.EOT"
  | .classifyCan => "CLASSIFY.CAN"
  | .classifyUnknown _ => "CLASSIFY.UNKNOWN"
  | .check _ _ _ _ _ _ _ => "CHECK"
  | .crc16 _ => "CRC16"
  | .bytes _ => "BYTES"
  | .validateFrame _ _ _ => "VALIDATE_FRAME"

/-- R65, R66: whether what is presented is of an operation's row: the format of the row, its match under its mask, and
the operand in its place. -/
def rowMatches (i : Instr) (p : Presented) : Bool :=
  match i, p with
  | .nop, .command rst cw => !rst && cw &&& 0x300#10 == 0x000#10
  | .clr, .command rst cw => !rst && cw &&& 0x300#10 == 0x100#10
  | .byte b, .command rst cw => !rst && cw &&& 0x300#10 == 0x200#10 && cw &&& 0x0FF#10 == BitVec.zeroExtend 10 b
  | .ill, .command rst cw => !rst && cw &&& 0x300#10 == 0x300#10
  | .reset, .command rst _ => rst
  | .classifySoh, .header h => h == 0x01#8
  | .classifyStx, .header h => h == 0x02#8
  | .classifyEot, .header h => h == 0x04#8
  | .classifyCan, .header h => h == 0x18#8
  | .classifyUnknown k, .header h => h == k && !(h == 0x01#8 || h == 0x02#8 || h == 0x04#8 || h == 0x18#8)
  | .check tstat seq cmpl expSeq crcHi crcLo hdr, .bundle v => v == tstat ++ seq ++ cmpl ++ expSeq ++ crcHi ++ crcLo ++ hdr
  | .crc16 buf, .crc16 buf' => buf == buf'
  | .bytes buf, .bytes buf' => buf == buf'
  | .validateFrame frame exp tstat, .validateFrame frame' exp' tstat' =>
    frame == frame' && exp == exp' && tstat == tstat'
  | _, _ => false

/-- One hexadecimal digit, in the capitals of the spec's literals. -/
def hexDigit (n : Nat) : String :=
  ["0", "1", "2", "3", "4", "5", "6", "7", "8", "9", "A", "B", "C", "D", "E", "F"].getD n "?"

/-- A byte as two hexadecimal digits. -/
def hexByte (b : Byte) : String := hexDigit (b.toNat / 16) ++ hexDigit (b.toNat % 16)

/-- A byte sequence as hexadecimal pairs, a space before each. -/
def hexBytes : List Byte → String
  | [] => ""
  | b :: bs => " " ++ hexByte b ++ hexBytes bs

/-- The transport status as two binary digits. -/
def binStatus (t : TStat) : String := hexDigit (t.toNat / 2) ++ hexDigit (t.toNat % 2)

/-- R76, R77: an operation written as one statement of a command stream. -/
def statementText : Instr → String
  | .nop => "NOP"
  | .clr => "CLR"
  | .byte b => "BYTE 0x" ++ hexByte b
  | .ill => ".ILL"
  | .reset => "RESET"
  | .classifySoh => "CLASSIFY 0x01"
  | .classifyStx => "CLASSIFY 0x02"
  | .classifyEot => "CLASSIFY 0x04"
  | .classifyCan => "CLASSIFY 0x18"
  | .classifyUnknown h => "CLASSIFY 0x" ++ hexByte h
  | .check tstat seq cmpl expSeq crcHi crcLo hdr =>
    "CHECK tstat=" ++ binStatus tstat ++ " seq=" ++ hexByte seq ++ " cmpl=" ++ hexByte cmpl ++ " exp=" ++ hexByte expSeq
      ++ " crc=" ++ hexByte crcHi ++ hexByte crcLo ++ " hdr=" ++ hexByte hdr
  | .crc16 buf => "CRC16" ++ hexBytes buf
  | .bytes buf => "BYTES" ++ hexBytes buf
  | .validateFrame frame exp tstat =>
    "VALIDATE_FRAME" ++ hexBytes frame ++ " exp=" ++ hexByte exp ++ " tstat=" ++ binStatus tstat

end Sys2Proof.Machine
end

