-- ==== Sys2Proof/Safety.lean ====
section
/-! DEFINITION. The terms claims use: runs, the launch premise (spec/70 R234), the whole-frame predicate and the frame
builder (spec/42 R143, R144), the order in which a correct host drives a frame (spec/48 R168), and the invariant of
the ports and their reading (spec/10 R26, spec/30 R74). -/

namespace Sys2Proof.Safety

open Sys2Proof.Machine

/-- A run of operations one after another, stopping at the first fault or refusal (R49, R200). -/
def runInstrs : List Instr → State → Host.Outcome State Fault Refusal
  | [], s => .next s
  | i :: is, s =>
    match exec i s with
    | .next t => runInstrs is t
    | .fault r => .fault r
    | .refused r => .refused r

/-- A run of `k` steps of what the host has queued. -/
def runPresented (k : Nat) (s : State) : Host.Outcome State Fault Refusal := Host.Core.run Sys2Proof.core k s

/-- A good run: it reaches a last state, so it holds no reserved command (R200). -/
def GoodRun (is : List Instr) (s : State) : Prop := ∃ t, runInstrs is s = .next t

/-- R234: the run's first step is `Reset` or `CLR` (`CRC16` begins with `CLR`, R140, log 19). -/
def launched : List Instr → Bool
  | .reset :: _ => true
  | .clr :: _ => true
  | .crc16 _ :: _ => true
  | _ => false

/-- R48: the payload of a data frame, offsets 3 to N+2. -/
def payloadOf (frame : List Byte) : List Byte :=
  match frame with
  | [] => []
  | h :: _ => (frame.drop 3).take (payBytes (kindOf h))

/-- The bytes in ACC after an operation, from those before: `CLR`, `Reset` and `CRC16` begin anew, `BYTE` and `BYTES`
add to them, a query leaves them (R92, R95, R96, R140, R141, R142, R145). -/
def absorbedAfter (before : List Byte) : Instr → List Byte
  | .nop => before
  | .clr => []
  | .byte b => before ++ [b]
  | .ill => before
  | .reset => []
  | .classifySoh => before
  | .classifyStx => before
  | .classifyEot => before
  | .classifyCan => before
  | .classifyUnknown _ => before
  | .check _ _ _ _ _ _ _ => before
  | .crc16 buf => buf
  | .bytes buf => before ++ buf
  | .validateFrame frame _ _ => if isData (frame.headD 0#8) then payloadOf frame else before

/-- The operations of a run that are taken as the spec's correct uses: no reserved command, and no frame with bytes
missing. -/
def plainUse : Instr → Bool
  | .ill => false
  | .validateFrame frame _ _ => frameComplete frame
  | _ => true

/-- R143 `frame_ok`: the whole-frame predicate, written out from the rule. -/
def frameOk (frame : List Byte) (e : Byte) (t : TStat) : Bool :=
  match frame with
  | [] => false
  | h :: _ =>
    let n := if h = 0x01#8 then 128 else 1024
    (h == 0x01#8 || h == 0x02#8) && frame.length == n + 5 && t == 0b00#2 && frame.getD 1 0#8 == e &&
      BitVec.zeroExtend 9 (frame.getD 1 0#8) + BitVec.zeroExtend 9 (frame.getD 2 0#8) == 255#9 &&
      (frame.getD (n + 3) 0#8 ++ frame.getD (n + 4) 0#8 : Word) == Machine.crc16 ((frame.drop 3).take n) n

/-- R144 `mk_frame`: the frame builder. -/
def mkFrame (h s : Byte) (payload : List Byte) : List Byte :=
  let c := Machine.crc16 payload payload.length
  [h, s, 255#8 - s] ++ payload ++ [c.extractLsb' 8 8, c.extractLsb' 0 8]

/-- R168: what a correct host presents for one data frame, in order: the header, `CLR` and the payload's bytes, then
the fields with the header still driven. -/
def hostSequence (h seq cmpl exp crcHi crcLo : Byte) (tstat : TStat) (payload : List Byte) : List Instr :=
  decodeHeader h :: .clr :: payload.map .byte ++ [.check tstat seq cmpl exp crcHi crcLo h]

/-- The invariant of the ports and their last reading: the ports hold no reserved command and `ill` was read 0; the
outputs were read as the functions of the header, the operands and the ACC read with them (R26, R27); `accept` says
that no error bit is set (R126). -/
structure PortsAgree (s : State) : Prop where
  notReserved : ¬(s.input.rst = false ∧ s.input.op = 0b11#2)
  ill : s.output.ill = false
  kind : s.output.kind = kindCode (kindOf s.input.hdr)
  payLen : s.output.payLen = Machine.payLen s.input.hdr
  remLen : s.output.remLen = Machine.remLen s.input.hdr
  frameLen : s.output.frameLen = Machine.frameLen s.input.hdr
  errUart : s.output.err.getLsbD 0 = decide (s.input.tstat ≠ 0b00#2)
  errNumber : s.output.err.getLsbD 1 = decide (s.input.seq ≠ s.input.expSeq)
  errCmpl : s.output.err.getLsbD 2 = decide (s.input.cmpl ≠ ~~~s.input.seq)
  errCrc : s.output.err.getLsbD 3 = decide (s.input.crcHi ++ s.input.crcLo ≠ s.output.acc)
  errHdr : s.output.err.getLsbD 4 = !(s.input.hdr == 0x01#8 || s.input.hdr == 0x02#8)
  accept : s.output.accept = true ↔ s.output.err = 0b00000#5

end Sys2Proof.Safety
end

