-- ==== Sys2Proof/Certificates/Slice0/Obligations.lean ====
section
/-! DEFINITION. The statements for the provers, each a rule of spec/ in the model's terms. -/

open Sys2Proof Sys2Proof.Machine Sys2Proof.Safety

/-! ### Encoding and decoding -/

/-- R65, R66, R64, R60: words written out from the encodings decode to the operations they stand for. -/
def Obligations.SampleWordsDecode : Prop :=
  decode (.command false 0b0000000000#10) = .nop ∧
  decode (.command false 0b0010101011#10) = .nop ∧
  decode (.command false 0b0100000000#10) = .clr ∧
  decode (.command false 0b0111111111#10) = .clr ∧
  decode (.command false 0b1000110001#10) = .byte 0x31#8 ∧
  decode (.command false 0b1100110001#10) = .ill ∧
  decode (.command true 0b1100110001#10) = .reset ∧
  decode (.header 0b00000001#8) = .classifySoh ∧
  decode (.header 0b00000010#8) = .classifyStx ∧
  decode (.header 0b00000100#8) = .classifyEot ∧
  decode (.header 0b00011000#8) = .classifyCan ∧
  decode (.header 0b10000001#8) = .classifyUnknown 0x81#8 ∧
  decode (.bundle 0b01000000011111111000000010111010000000101000000001#50) =
    .check 0b01#2 0x01#8 0xFE#8 0x02#8 0xE8#8 0x0A#8 0x01#8

/-- R60 to R66: decoding the encoding of a well-formed operation gives it back, with every operand. -/
def Obligations.DecodeEncodeRoundTrip : Prop :=
  ∀ i : Instr, i.wellFormed = true → decode (encode i) = i

/-- R65, R72: every command word by match and mask, with its canonical re-encoding: the bits ignored are zero, and a
BYTE word is `0x200 + b`. -/
def Obligations.CommandWordsByMatchAndMask : Prop :=
  ∀ cw : CommandWord,
    (cw &&& 0x300#10 = 0x000#10 → decode (.command false cw) = .nop ∧ encode .nop = .command false 0x000#10) ∧
    (cw &&& 0x300#10 = 0x100#10 → decode (.command false cw) = .clr ∧ encode .clr = .command false 0x100#10) ∧
    (cw &&& 0x300#10 = 0x200#10 →
      ∃ b : Byte, decode (.command false cw) = .byte b ∧ encode (.byte b) = .command false cw ∧
        cw.toNat = 0x200 + b.toNat) ∧
    (cw &&& 0x300#10 = 0x300#10 → decode (.command false cw) = .ill ∧ encode .ill = .command false 0x300#10)

/-- R66, R110, R116: each of the 256 header bytes has exactly its one outcome, compared on all 8 bits, and its term is
well-formed. -/
def Obligations.HeaderBytesHaveOneOutcome : Prop :=
  ∀ h : Byte,
    decode (.header h) =
      (if h = 0x01#8 then .classifySoh else if h = 0x02#8 then .classifyStx
       else if h = 0x04#8 then .classifyEot else if h = 0x18#8 then .classifyCan else .classifyUnknown h) ∧
    (decode (.header h)).wellFormed = true ∧
    encode (decode (.header h)) = .header h

/-- R64: every bit of the bundle is an operand bit in its place, and none is lost. -/
def Obligations.BundleFieldsDecode : Prop :=
  (∀ (tstat : TStat) (seq cmpl expSeq crcHi crcLo hdr : Byte),
    decode (.bundle (tstat ++ seq ++ cmpl ++ expSeq ++ crcHi ++ crcLo ++ hdr)) =
      .check tstat seq cmpl expSeq crcHi crcLo hdr) ∧
  ∀ v : Bundle, encode (decode (.bundle v)) = .bundle v

/-! ### Steps -/

/-- R4, R29, R60, R61, R64: the host's next presentation drives the ports of its format, the other ports and all else
kept, and the operation it encodes runs on the rest of the queue; a step of a presentation that drives ports leaves
them at the levels driven. A pseudo-operation is no value on a port. (The queue, the levels that stay and the forms of
presentation are the model's own: log 1, log 3, log 14.) -/
def Obligations.StepRunsDecodedOperation : Prop :=
  (∀ (s : State) (p : Presented) (rest : List Presented), s.queue = p :: rest →
    step s = exec (decode p) (drive p { s with queue := rest })) ∧
  (∀ (s : State) (rst : Bool) (cw : CommandWord),
    drive (.command rst cw) s =
      { s with input := { s.input with rst := rst, op := cw.extractLsb' 8 2, din := cw.extractLsb' 0 8 } }) ∧
  (∀ (s : State) (i : StepInput), drive (.inputs i) s = { s with input := i }) ∧
  (∀ (s : State) (h : Byte), drive (.header h) s = { s with input := { s.input with hdr := h } }) ∧
  (∀ (s : State) (v : Bundle),
    drive (.bundle v) s =
      { s with
        input :=
          { s.input with
            tstat := v.extractLsb' 48 2, seq := v.extractLsb' 40 8, cmpl := v.extractLsb' 32 8
            expSeq := v.extractLsb' 24 8, crcHi := v.extractLsb' 16 8, crcLo := v.extractLsb' 8 8
            hdr := v.extractLsb' 0 8 } }) ∧
  (∀ (s : State) (buf frame : List Byte) (e : Byte) (tstat : TStat),
    drive (.crc16 buf) s = s ∧ drive (.bytes buf) s = s ∧ drive (.validateFrame frame e tstat) s = s) ∧
  ∀ (s t : State) (p : Presented) (rest : List Presented), s.queue = p :: rest → step s = .next t →
    t.queue = rest ∧
    ((∃ rst cw, p = .command rst cw) ∨ (∃ i, p = .inputs i) ∨ (∃ h, p = .header h) ∨ (∃ v, p = .bundle v) →
      t.input = (drive p s).input)

/-- The fetch word of the table is what the next step runs (log 1, log 13). -/
def Obligations.FetchWordRunsNext : Prop :=
  ∀ (s : State) (nbits w : Nat) (i : Instr), decodeTableWord nbits w = some i →
    ∃ p, decode p = i ∧ step (s.withFetchWord nbits w) = exec i (drive p s)

/-- R235: with nothing presented there is no step (the model's own refusal: log 2). -/
def Obligations.NoPresentationNoStep : Prop :=
  ∀ s : State, s.queue = [] → step s = .refused .noStepPresented

/-- R29: with all ports presented at once, a step takes ACC and the outputs to what the block's function gives: the
outputs from the ACC before and the inputs, the new ACC by R230 and R94 to R97; a reserved command faults with its
command word (R97, R200). That the fault also holds the state the hardware is left in is the model's choice (log 7),
and so are the counter `steps` and its use as the fault's index (log 5). -/
def Obligations.StepIsTheBlockFunction : Prop :=
  ∀ (s : State) (i : StepInput) (rest : List Presented), s.queue = .inputs i :: rest →
    (¬(i.rst = false ∧ i.op = 0b11#2) →
      step s = .next
        { acc := (blockStep s.acc i).1, input := i, output := (blockStep s.acc i).2
          queue := rest, steps := s.steps + 1, fresh := s.fresh }) ∧
    (i.rst = false ∧ i.op = 0b11#2 →
      step s = .fault (.illegalCommand (i.op ++ i.din) s.steps
        { acc := (blockStep s.acc i).1, input := i, output := (blockStep s.acc i).2
          queue := rest, steps := s.steps + 1, fresh := s.fresh })) ∧
    blockStep s.acc i =
      (if i.rst = true then 0x0000#16 else if i.op = 0b00#2 then s.acc else if i.op = 0b01#2 then 0x0000#16
       else if i.op = 0b10#2 then crcByte s.acc i.din else s.acc, outputs s.acc i)

/-- R102: ACC after an engine step depends on ACC before it and on that step's rst, op and din only. -/
def Obligations.AccDependsOnEngineInputsOnly : Prop :=
  ∀ (s s' t : State) (i i' : StepInput) (rest rest' : List Presented),
    s.queue = .inputs i :: rest → s'.queue = .inputs i' :: rest' →
    s.acc = s'.acc → i.rst = i'.rst → i.op = i'.op → i.din = i'.din →
    step s = .next t → ∃ t', step s' = .next t' ∧ t'.acc = t.acc

/-- R72, R230 (D7, U4): the bits of the command word that a command ignores change neither ACC nor any output. -/
def Obligations.IgnoredBitsHaveNoEffect : Prop :=
  ∀ (s t : State) (rst : Bool) (cw cw' : CommandWord) (rest : List Presented),
    (rst = true ∨ (cw.extractLsb' 8 2 = cw'.extractLsb' 8 2 ∧ cw.extractLsb' 8 2 ≠ 0b10#2)) →
    step { s with queue := .command rst cw :: rest } = .next t →
    ∃ t', step { s with queue := .command rst cw' :: rest } = .next t' ∧ t'.acc = t.acc ∧ t'.output = t.output

/-! ### The engine -/

/-- R94: `NOP` keeps ACC, `ill` is 0 and the output `acc` is ACC; any level on din. -/
def Obligations.NopKeepsAcc : Prop :=
  (∀ s : State, ∃ t, exec .nop s = .next t ∧ t.acc = s.acc ∧ t.output.ill = false ∧ t.output.acc = s.acc) ∧
  (∀ din : Byte, decode (.command false (0b00#2 ++ din)) = .nop) ∧ encode .nop = .command false 0x000#10

/-- R95: `CLR` takes ACC to 0x0000, the output `acc` is the old ACC, and the new one is read from the next step. -/
def Obligations.ClrZeroesAcc : Prop :=
  (∀ s : State, ∃ t u, exec .clr s = .next t ∧ t.acc = 0x0000#16 ∧ t.output.ill = false ∧ t.output.acc = s.acc ∧
    exec .nop t = .next u ∧ u.output.acc = 0x0000#16) ∧
  (∀ din : Byte, decode (.command false (0b01#2 ++ din)) = .clr) ∧ encode .clr = .command false 0x100#10

/-- R96: `BYTE b` takes ACC to crc_byte(ACC, b), the output `acc` is the old ACC, with the rule's corner cases. -/
def Obligations.ByteAbsorbs : Prop :=
  (∀ (b : Byte) (s : State), ∃ t, exec (.byte b) s = .next t ∧ t.acc = crcByte s.acc b ∧ t.output.ill = false ∧
    t.output.acc = s.acc) ∧
  (∀ b : Byte, encode (.byte b) = .command false (0x200#10 + BitVec.zeroExtend 10 b)) ∧
  (∀ (b : Byte) (s t : State), exec (.byte b) s = .next t → b = s.acc.extractLsb' 8 8 →
    t.acc = s.acc.extractLsb' 0 8 ++ 0x00#8) ∧
  crcByte 0x0000#16 0x00#8 = 0x0000#16 ∧
  crcByte (crcByte 0x0000#16 0x31#8) 0x31#8 = 0x10D6#16 ∧
  crcByte 0x2672#16 0x32#8 = 0x20B5#16

/-- R97: the reserved command holds ACC with `ill` = 1 and faults with its command word, whatever din is; with rst = 1
the step is a `Reset`; and nothing is latched: in the hardware's next step `ill` is 0 unless that is reserved too. The
fault's index (R200) is the model's counter `steps` (log 5), and that the fault holds the state the hardware is left in
is the model's choice (log 7). -/
def Obligations.ReservedCommandFaults : Prop :=
  (∀ s : State, ∃ held, exec .ill s = .fault (.illegalCommand (0b11#2 ++ s.input.din) s.steps held) ∧
    held.acc = s.acc ∧ held.output.ill = true ∧ held.output.acc = s.acc) ∧
  (∀ (s : State) (din : Byte) (rest : List Presented), s.queue = .command false (0b11#2 ++ din) :: rest →
    ∃ held, step s = .fault (.illegalCommand (0b11#2 ++ din) s.steps held) ∧ held.acc = s.acc ∧
      held.output.ill = true ∧ held.output.acc = s.acc ∧ held.queue = rest) ∧
  (∀ (s : State) (din : Byte) (rest : List Presented), s.queue = .command true (0b11#2 ++ din) :: rest →
    ∃ t, step s = .next t ∧ t.acc = 0x0000#16 ∧ t.output.ill = false) ∧
  ∀ (s held t : State) (cw : CommandWord) (n : Nat) (i : StepInput) (rest : List Presented),
    exec .ill s = .fault (.illegalCommand cw n held) → held.queue = .inputs i :: rest → step held = .next t →
    t.output.ill = false ∧ t.acc = nextAcc s.acc i

/-- R208: from the state a reserved command leaves the hardware in, the next legal command executes normally from the
held ACC, and `ill` is 0 again; the model's run does not go on after the fault.
(That the fault holds the state the hardware is left in is the model's choice: log 7.) -/
def Obligations.LegalCommandAfterReserved : Prop :=
  (∀ (s held : State) (cw : CommandWord) (n : Nat), exec .ill s = .fault (.illegalCommand cw n held) →
    (∃ t, exec .nop held = .next t ∧ t.acc = s.acc ∧ t.output.ill = false) ∧
    (∃ t, exec .clr held = .next t ∧ t.acc = 0x0000#16 ∧ t.output.ill = false) ∧
    (∀ b, ∃ t, exec (.byte b) held = .next t ∧ t.acc = crcByte s.acc b ∧ t.output.ill = false) ∧
    (∃ t, exec .reset held = .next t ∧ t.acc = 0x0000#16 ∧ t.output.ill = false)) ∧
  ∀ (is : List Instr) (s : State), runInstrs (.ill :: is) s = exec .ill s

/-- R230: a step with rst = 1 is `Reset` whatever op and din are: ACC takes 0x0000, `ill` is 0, and the outputs are
those of the ACC before the step. -/
def Obligations.ResetClearsAcc : Prop :=
  (∀ s : State, ∃ t, exec .reset s = .next t ∧ t.acc = 0x0000#16 ∧ t.output.ill = false ∧
    t.output = outputs s.acc t.input) ∧
  (∀ cw : CommandWord, decode (.command true cw) = .reset) ∧
  (∀ i : StepInput, i.rst = true → decode (.inputs i) = .reset) ∧
  ∀ s : State, ∃ t u, exec .reset s = .next t ∧ exec .clr s = .next u ∧ t.acc = u.acc

/-- The frame of the engine's commands and of `Reset`: the validator's ports, the queue and the free-byte counter are
unchanged, one step is counted (the model's counter, `Reset` included: log 5), and the ports `rst`, `op` and `din` are
at the command's levels, an operand that it has not staying as it was (log 3, log 8); presented as a command word, they
are at the word's levels, those of its ignored bits too. -/
def Obligations.EngineCommandFrame : Prop :=
  (∀ (i : Instr) (s t : State), (i = .nop ∨ i = .clr ∨ i = .reset ∨ ∃ b, i = .byte b) → exec i s = .next t →
    t.input.hdr = s.input.hdr ∧ t.input.tstat = s.input.tstat ∧ t.input.seq = s.input.seq ∧
    t.input.cmpl = s.input.cmpl ∧ t.input.expSeq = s.input.expSeq ∧ t.input.crcHi = s.input.crcHi ∧
    t.input.crcLo = s.input.crcLo ∧ t.queue = s.queue ∧ t.fresh = s.fresh ∧ t.steps = s.steps + 1 ∧
    (i = .nop → t.input.rst = false ∧ t.input.op = 0b00#2 ∧ t.input.din = s.input.din) ∧
    (i = .clr → t.input.rst = false ∧ t.input.op = 0b01#2 ∧ t.input.din = s.input.din) ∧
    (∀ b, i = .byte b → t.input.rst = false ∧ t.input.op = 0b10#2 ∧ t.input.din = b) ∧
    (i = .reset → t.input.rst = true ∧ t.input.op = s.input.op ∧ t.input.din = s.input.din)) ∧
  ∀ (s t : State) (rst : Bool) (cw : CommandWord) (rest : List Presented),
    s.queue = .command rst cw :: rest → step s = .next t →
    t.input = { s.input with rst := rst, op := cw.extractLsb' 8 2, din := cw.extractLsb' 0 8 } ∧
    t.queue = rest ∧ t.fresh = s.fresh ∧ t.steps = s.steps + 1

/-! ### The checksum functions -/

/-- R90: `crc_round` as a shift with the polynomial, and its bit form. -/
def Obligations.CrcRoundBitForm : Prop :=
  (∀ a : Word, a.getLsbD 15 = true → crcRound a = (a <<< 1) ^^^ 0x1021#16) ∧
  (∀ a : Word, a.getLsbD 15 = false → crcRound a = a <<< 1) ∧
  (∀ (a : Word) (i : Nat), i < 16 →
    (crcRound a).getLsbD i =
      (if i = 0 then a.getLsbD 15
       else if i = 5 ∨ i = 12 then (a.getLsbD (i - 1) ^^ a.getLsbD 15)
       else a.getLsbD (i - 1))) ∧
  crcRound 0x0000#16 = 0x0000#16 ∧ crcRound 0x4000#16 = 0x8000#16 ∧ crcRound 0x8000#16 = 0x1021#16 ∧
  crcRound 0xFFFF#16 = 0xEFDF#16

/-- spec/95 section 2.1: `crc_round` is a bijection, and so is `crc_byte` for each byte. -/
def Obligations.CrcRoundIsBijective : Prop :=
  Function.Bijective crcRound ∧ ∀ b : Byte, Function.Bijective fun a => crcByte a b

/-- R92: `crc16` starts from 0x0000, takes one byte more by one `crc_byte`, and depends on the first `length` bytes
only; the example of the rule. -/
def Obligations.CrcSixteenIsTheLoop : Prop :=
  (∀ buf : List Byte, crc16 buf 0 = 0x0000#16) ∧
  (∀ (buf : List Byte) (n : Nat) (h : n < buf.length), crc16 buf (n + 1) = crcByte (crc16 buf n) buf[n]) ∧
  (∀ (buf buf' : List Byte) (n : Nat), buf.take n = buf'.take n → crc16 buf n = crc16 buf' n) ∧
  crc16 [0x31#8, 0x32#8, 0x33#8, 0x34#8, 0x35#8, 0x36#8, 0x37#8, 0x38#8, 0x39#8] 9 = 0x31C3#16

/-- R93: `crc_fold` by its equations, `crc16` from it, and a fold over a concatenation. -/
def Obligations.CrcFoldOfConcatenation : Prop :=
  (∀ a, crcFold a [] = a) ∧
  (∀ a b s, crcFold a ([b] ++ s) = crcFold (crcByte a b) s) ∧
  (∀ buffer n, crc16 buffer n = crcFold 0x0000#16 (buffer.take n)) ∧
  ∀ a s t, crcFold a (s ++ t) = crcFold (crcFold a s) t

/-- R99: zero is preserved, an all-zero buffer has the checksum 0x0000, and leading zero bytes are invisible. -/
def Obligations.LeadingZerosAreInvisible : Prop :=
  crcRound 0x0000#16 = 0x0000#16 ∧ crcByte 0x0000#16 0x00#8 = 0x0000#16 ∧
  (∀ n, crcFold 0x0000#16 (List.replicate n 0x00#8) = 0x0000#16) ∧
  (∀ n, crc16 (List.replicate n 0x00#8) n = 0x0000#16) ∧
  ∀ (n : Nat) (s : List Byte), crc16 (List.replicate n 0x00#8 ++ s) (n + s.length) = crc16 s s.length

/-- R100: the round, the byte and the checksum of two buffers of equal length are linear. -/
def Obligations.ChecksumIsLinear : Prop :=
  (∀ a a', crcRound (a ^^^ a') = crcRound a ^^^ crcRound a') ∧
  (∀ a a' b b', crcByte (a ^^^ a') (b ^^^ b') = crcByte a b ^^^ crcByte a' b') ∧
  ∀ s t : List Byte, s.length = t.length →
    crc16 (List.zipWith (· ^^^ ·) s t) s.length = crc16 s s.length ^^^ crc16 t t.length

/-- R100, its consequences: bit 0 of the last byte changes the checksum by exactly 0x1021, and any single-bit change
changes it. -/
def Obligations.SingleBitChangesAreSeen : Prop :=
  (∀ (s : List Byte) (b : Byte),
    crc16 (s ++ [b ^^^ 0x01#8]) (s.length + 1) = crc16 (s ++ [b]) (s.length + 1) ^^^ 0x1021#16) ∧
  ∀ (s t : List Byte) (b : Byte) (k : Nat), k < 8 →
    crc16 (s ++ (b ^^^ (1#8 <<< k)) :: t) (s.length + 1 + t.length) ≠
      crc16 (s ++ b :: t) (s.length + 1 + t.length)

/-- R101: absorbing the high byte of ACC shifts its low byte up, absorbing that clears it, so a buffer followed by its
checksum leaves 0x0000. -/
def Obligations.ResidueIsZero : Prop :=
  (∀ A : Word, crcByte A (A.extractLsb' 8 8) = A.extractLsb' 0 8 ++ 0x00#8) ∧
  (∀ A : Word, crcByte (A.extractLsb' 0 8 ++ 0x00#8) (A.extractLsb' 0 8) = 0x0000#16) ∧
  ∀ s : List Byte, crcFold (crc16 s s.length)
    [(crc16 s s.length).extractLsb' 8 8, (crc16 s s.length).extractLsb' 0 8] = 0x0000#16

/-! ### The validator -/

/-- R111 to R114: the four known headers complete with the kind and the three lengths of their rules. -/
def Obligations.KnownHeadersClassify : Prop :=
  ∀ s : State,
    (∃ t, exec .classifySoh s = .next t ∧ t.input.hdr = 0x01#8 ∧ t.output.kind = 1#3 ∧ t.output.payLen = 128#11 ∧
      t.output.remLen = 132#11 ∧ t.output.frameLen = 133#11 ∧ frameFormat (kindOf t.input.hdr) = some .f128) ∧
    (∃ t, exec .classifyStx s = .next t ∧ t.input.hdr = 0x02#8 ∧ t.output.kind = 2#3 ∧ t.output.payLen = 1024#11 ∧
      t.output.remLen = 1028#11 ∧ t.output.frameLen = 1029#11 ∧ frameFormat (kindOf t.input.hdr) = some .f1024) ∧
    (∃ t, exec .classifyEot s = .next t ∧ t.input.hdr = 0x04#8 ∧ t.output.kind = 3#3 ∧ t.output.payLen = 0#11 ∧
      t.output.remLen = 0#11 ∧ t.output.frameLen = 1#11 ∧ frameFormat (kindOf t.input.hdr) = some .f1) ∧
    ∃ t, exec .classifyCan s = .next t ∧ t.input.hdr = 0x18#8 ∧ t.output.kind = 4#3 ∧ t.output.payLen = 0#11 ∧
      t.output.remLen = 0#11 ∧ t.output.frameLen = 1#11 ∧ frameFormat (kindOf t.input.hdr) = some .f1

/-- R115: every other header completes as Unknown, with no payload and a frame of one byte. -/
def Obligations.OtherHeadersAreUnknown : Prop :=
  ∀ (h : Byte) (s : State), h ≠ 0x01#8 → h ≠ 0x02#8 → h ≠ 0x04#8 → h ≠ 0x18#8 →
    ∃ t, exec (.classifyUnknown h) s = .next t ∧ t.input.hdr = h ∧ t.output.kind = 0#3 ∧ t.output.payLen = 0#11 ∧
      t.output.remLen = 0#11 ∧ t.output.frameLen = 1#11 ∧ frameFormat (kindOf t.input.hdr) = none

/-- R117, R118, R119: the three length outputs for every header on the port, in every engine step that completes. -/
def Obligations.LengthOutputsInEveryStep : Prop :=
  ∀ (s t : State) (i : StepInput) (rest : List Presented), s.queue = .inputs i :: rest → step s = .next t →
    t.output.payLen = (if i.hdr = 0x01#8 then 128#11 else if i.hdr = 0x02#8 then 1024#11 else 0#11) ∧
    t.output.remLen = (if i.hdr = 0x01#8 then 132#11 else if i.hdr = 0x02#8 then 1028#11 else 0#11) ∧
    t.output.frameLen = (if i.hdr = 0x01#8 then 133#11 else if i.hdr = 0x02#8 then 1029#11 else 1#11) ∧
    t.output.frameLen = t.output.remLen + 1#11

/-- R120: `CHECK` completes with every error bit computed from its own operands, `accept` from all, and no state of the
block written. -/
def Obligations.CheckComputesEveryErrorBit : Prop :=
  ∀ (tstat : TStat) (seq cmpl expSeq crcHi crcLo hdr : Byte) (s : State),
    ∃ t, exec (.check tstat seq cmpl expSeq crcHi crcLo hdr) s = .next t ∧
      t.output.err.getLsbD 0 = decide (tstat ≠ 0b00#2) ∧
      t.output.err.getLsbD 1 = decide (seq ≠ expSeq) ∧
      t.output.err.getLsbD 2 = decide (BitVec.zeroExtend 9 seq + BitVec.zeroExtend 9 cmpl ≠ 255#9) ∧
      t.output.err.getLsbD 3 = decide (crcHi ++ crcLo ≠ s.acc) ∧
      t.output.err.getLsbD 4 = !(hdr == 0x01#8 || hdr == 0x02#8) ∧
      (t.output.accept = true ↔ t.output.err = 0b00000#5) ∧
      t.acc = s.acc

/-- R126: `accept` is the conjunction of the five conditions. -/
def Obligations.AcceptIsTheConjunction : Prop :=
  ∀ (tstat : TStat) (seq cmpl expSeq crcHi crcLo hdr : Byte) (s t : State),
    exec (.check tstat seq cmpl expSeq crcHi crcLo hdr) s = .next t →
    (t.output.accept = true ↔
      (hdr = 0x01#8 ∨ hdr = 0x02#8) ∧ tstat = 0b00#2 ∧ seq = expSeq ∧ cmpl = ~~~seq ∧ crcHi ++ crcLo = s.acc) ∧
    (t.output.accept = true ↔ t.output.err = 0b00000#5)

/-- R123: the complement check gives the same verdict at any width of the sum, as a complement and as an XOR; and a sum other than 255 rejects, whatever the checksum. -/
def Obligations.ComplementCheckForms : Prop :=
  ∀ (tstat : TStat) (seq cmpl expSeq crcHi crcLo hdr : Byte) (s t : State),
    exec (.check tstat seq cmpl expSeq crcHi crcLo hdr) s = .next t →
    t.output.err.getLsbD 2 = decide (BitVec.zeroExtend 9 seq + BitVec.zeroExtend 9 cmpl ≠ 255#9) ∧
    t.output.err.getLsbD 2 = decide (seq.toNat + cmpl.toNat ≠ 255) ∧
    t.output.err.getLsbD 2 = decide (seq + cmpl ≠ 0xFF#8) ∧
    t.output.err.getLsbD 2 = decide (cmpl ≠ ~~~seq) ∧
    t.output.err.getLsbD 2 = decide (seq ^^^ cmpl ≠ 0xFF#8) ∧
    (seq.toNat + cmpl.toNat ≠ 255 → t.output.accept = false)

/-- R125, R247: a header that is no data header, or a transport status other than Ok, rejects whatever else is
presented. -/
def Obligations.BadHeaderOrTransportRejects : Prop :=
  ∀ (tstat : TStat) (seq cmpl expSeq crcHi crcLo hdr : Byte) (s t : State),
    exec (.check tstat seq cmpl expSeq crcHi crcLo hdr) s = .next t →
    (tstat ≠ 0b00#2 → t.output.err.getLsbD 0 = true ∧ t.output.accept = false) ∧
    ((t.output.err.getLsbD 4 = true ↔ t.output.kind ≠ 1#3 ∧ t.output.kind ≠ 2#3)) ∧
    (hdr ≠ 0x01#8 → hdr ≠ 0x02#8 → t.output.err.getLsbD 4 = true ∧ t.output.accept = false)

/-- R204: no cause hides another: from every state, every one of the 32 values of `err` is the answer to some
operands, and the causes that hold are exactly those reported. -/
def Obligations.EveryErrorVectorOccurs : Prop :=
  (∀ (s : State) (e : BitVec 5), ∃ (tstat : TStat) (seq cmpl expSeq crcHi crcLo hdr : Byte) (t : State),
    exec (.check tstat seq cmpl expSeq crcHi crcLo hdr) s = .next t ∧ t.output.err = e) ∧
  ∀ (acc : Word) (i : StepInput) (c : RejectionCause), c ∈ causesOf (outputs acc i).err ↔ causeHolds acc i c = true

/-- R128: a query writes no state of the block, and evaluating it again gives the same outputs and the same state. -/
def Obligations.QueriesAreIdempotent : Prop :=
  ∀ (i : Instr) (s t : State),
    (i = .classifySoh ∨ i = .classifyStx ∨ i = .classifyEot ∨ i = .classifyCan ∨ (∃ h, i = .classifyUnknown h) ∨
      ∃ a b c d e f h, i = .check a b c d e f h) →
    exec i s = .next t → t.acc = s.acc ∧ exec i t = .next t

/-- The frame of the queries: ACC, the engine's ports, the queue, the step count and the free-byte counter are
unchanged, and `CLASSIFY` drives the header only. -/
def Obligations.QueryFrame : Prop :=
  ∀ (i : Instr) (s t : State),
    (i = .classifySoh ∨ i = .classifyStx ∨ i = .classifyEot ∨ i = .classifyCan ∨ (∃ h, i = .classifyUnknown h) ∨
      ∃ a b c d e f h, i = .check a b c d e f h) →
    exec i s = .next t →
    t.acc = s.acc ∧ t.input.rst = s.input.rst ∧ t.input.op = s.input.op ∧ t.input.din = s.input.din ∧
    t.queue = s.queue ∧ t.steps = s.steps ∧ t.fresh = s.fresh ∧
    ((∃ a b c d e f h, i = .check a b c d e f h) ∨ t.input = { s.input with hdr := t.input.hdr })

/-- R205: the checks read in the same step as a command are made against the ACC before it, those of a reserved
command too, though the model has faulted; and rst = 1 makes the step a `Reset` whatever op is.
(That the fault holds the state the hardware is left in is the model's choice: log 7.) -/
def Obligations.CheckInTheStepSeesOldAcc : Prop :=
  ∀ (s : State) (i : StepInput) (rest : List Presented), s.queue = .inputs i :: rest →
    (∀ t, step s = .next t →
      t.output.acc = s.acc ∧ t.output.err.getLsbD 3 = decide (i.crcHi ++ i.crcLo ≠ s.acc)) ∧
    (∀ cw n held, step s = .fault (.illegalCommand cw n held) →
      held.output.acc = s.acc ∧ held.output.err.getLsbD 3 = decide (i.crcHi ++ i.crcLo ≠ s.acc)) ∧
    (i.rst = true → ∃ t, step s = .next t ∧ t.output.ill = false ∧ t.acc = 0x0000#16)

/-! ### The pseudo-operations -/

/-- R140: `CRC16 buf` completes with ACC the checksum of the buffer whatever ACC was, in n + 1 steps, driving no port of
the validator; and presenting the words of its expansion one by one ends in the same state. -/
def Obligations.CrcSixteenOfBuffer : Prop :=
  (∀ (buf : List Byte) (s : State), ∃ t, exec (.crc16 buf) s = .next t ∧ t.acc = crc16 buf buf.length ∧
    t.steps = s.steps + buf.length + 1 ∧ t.queue = s.queue ∧ t.fresh = s.fresh ∧
    t.input = { s.input with rst := t.input.rst, op := t.input.op, din := t.input.din }) ∧
  ∀ (buf : List Byte) (s : State) (rest : List Presented),
    runPresented (buf.length + 1)
        { s with
          queue := .command false 0x100#10 ::
            buf.map (fun b => .command false (0x200#10 + BitVec.zeroExtend 10 b)) ++ rest } =
      exec (.crc16 buf) { s with queue := rest }

/-- R141: `BYTES buf` completes with ACC folded over the buffer, so that a buffer may be absorbed in pieces; and
presenting the words of its expansion one by one ends in the same state. -/
def Obligations.BytesExtendTheChecksum : Prop :=
  (∀ (buf : List Byte) (s : State), ∃ t, exec (.bytes buf) s = .next t ∧ t.acc = crcFold s.acc buf ∧
    t.steps = s.steps + buf.length ∧ t.queue = s.queue ∧ t.fresh = s.fresh ∧
    t.input = { s.input with rst := t.input.rst, op := t.input.op, din := t.input.din }) ∧
  (∀ (a b : List Byte) (s : State), ∃ t, runInstrs [.crc16 a, .bytes b] s = .next t ∧
    t.acc = crc16 (a ++ b) (a ++ b).length) ∧
  ∀ (buf : List Byte) (s : State) (rest : List Presented),
    runPresented buf.length
        { s with queue := buf.map (fun b => .command false (0x200#10 + BitVec.zeroExtend 10 b)) ++ rest } =
      exec (.bytes buf) { s with queue := rest }

/-- R142, R143: `VALIDATE_FRAME` of a data frame of the full length completes with the header's kind, ACC the checksum
of the payload, the error bits of the frame's fields, and `accept` as `frame_ok` says, in N + 1 engine steps. -/
def Obligations.FullFrameIsJudged : Prop :=
  ∀ (frame : List Byte) (e : Byte) (tstat : TStat) (s : State) (n : Nat),
    (frame.getD 0 0#8 = 0x01#8 ∧ n = 128 ∨ frame.getD 0 0#8 = 0x02#8 ∧ n = 1024) → frame.length = n + 5 →
    ∃ t, exec (.validateFrame frame e tstat) s = .next t ∧
      t.output.accept = frameOk frame e tstat ∧
      t.output.kind = (if n = 128 then 1#3 else 2#3) ∧
      t.output.err.getLsbD 0 = decide (tstat ≠ 0b00#2) ∧
      t.output.err.getLsbD 1 = decide (frame.getD 1 0#8 ≠ e) ∧
      t.output.err.getLsbD 2 = decide (frame.getD 2 0#8 ≠ ~~~(frame.getD 1 0#8)) ∧
      t.output.err.getLsbD 3 = decide (frame.getD (n + 3) 0#8 ++ frame.getD (n + 4) 0#8 ≠
        crc16 ((frame.drop 3).take n) n) ∧
      t.output.err.getLsbD 4 = false ∧
      t.acc = crc16 ((frame.drop 3).take n) n ∧
      t.steps = s.steps + n + 1 ∧ t.queue = s.queue ∧ t.fresh = s.fresh

/-- R145: `VALIDATE_FRAME` of a frame that is no data frame completes with its kind, no engine step, ACC as it was,
`err[4]` = 1 and `accept` = 0, whatever the free values of the other operands are. -/
def Obligations.ControlFrameLeavesAcc : Prop :=
  ∀ (h : Byte) (more : List Byte) (e : Byte) (tstat : TStat) (s : State), h ≠ 0x01#8 → h ≠ 0x02#8 →
    ∃ t, exec (.validateFrame (h :: more) e tstat) s = .next t ∧ t.acc = s.acc ∧ t.steps = s.steps ∧
      t.output.kind = (if h = 0x04#8 then 3#3 else if h = 0x18#8 then 4#3 else 0#3) ∧
      t.output.err.getLsbD 4 = true ∧ t.output.accept = false ∧ t.queue = s.queue ∧
      t.input.rst = s.input.rst ∧ t.input.op = s.input.op ∧ t.input.din = s.input.din

/-- R146: with a transport status other than Ok every frame completes and is rejected, whatever the free bytes are
(log 9), a data frame with `err[0]` = 1; a frame with bytes missing whose status is Ok is refused (as a whole: log 11);
and bytes beyond the frame are not read. -/
def Obligations.ShortAndLongFrames : Prop :=
  (∀ (frame : List Byte) (e : Byte) (tstat : TStat) (s : State), tstat ≠ 0b00#2 →
    ∃ t, exec (.validateFrame frame e tstat) s = .next t ∧ t.output.accept = false ∧ t.queue = s.queue ∧
      (frame.getD 0 0#8 = 0x01#8 ∨ frame.getD 0 0#8 = 0x02#8 → t.output.err.getLsbD 0 = true)) ∧
  (∀ (frame : List Byte) (e : Byte) (s : State), frameComplete frame = false →
    exec (.validateFrame frame e 0b00#2) s = .refused (.frameTooShort frame.length)) ∧
  ∀ (frame more : List Byte) (e : Byte) (tstat : TStat) (s : State), frameComplete frame = true →
    exec (.validateFrame (frame ++ more) e tstat) s = exec (.validateFrame frame e tstat) s

/-- R144: a frame built for a payload of its header's length is `frame_ok`, and `VALIDATE_FRAME` accepts it from every
state. -/
def Obligations.BuiltFrameIsAccepted : Prop :=
  ∀ (h seq : Byte) (payload : List Byte),
    (h = 0x01#8 ∧ payload.length = 128 ∨ h = 0x02#8 ∧ payload.length = 1024) →
    frameOk (mkFrame h seq payload) seq 0b00#2 = true ∧
    ∀ s : State, ∃ t, exec (.validateFrame (mkFrame h seq payload) seq 0b00#2) s = .next t ∧
      t.output.accept = true

/-- R77, R142: presenting the expansion of `VALIDATE_FRAME` word by word ends in the state the pseudo-operation gives,
but for the counter of the free bytes. -/
def Obligations.FrameExpansionRunsAlike : Prop :=
  ∀ (frame : List Byte) (e : Byte) (tstat : TStat) (s : State) (rest : List Presented),
    (Instr.validateFrame frame e tstat).wellFormed = true →
    ∃ t u, runPresented (expandFrame frame e tstat s.fresh).length
        { s with queue := expand s.fresh (.validateFrame frame e tstat) ++ rest } = .next t ∧
      exec (.validateFrame frame e tstat) { s with queue := rest } = .next u ∧ u = { t with fresh := u.fresh }

/-- R168, R142: a host that drives the header, `CLR`, the payload's bytes and the fields in order reads the verdict
`frame_ok` on the frame those bytes make. -/
def Obligations.HostSequenceGivesTheVerdict : Prop :=
  ∀ (h seq cmpl exp crcHi crcLo : Byte) (tstat : TStat) (payload : List Byte) (s : State),
    (h = 0x01#8 ∧ payload.length = 128 ∨ h = 0x02#8 ∧ payload.length = 1024) →
    ∃ t, runInstrs (hostSequence h seq cmpl exp crcHi crcLo tstat payload) s = .next t ∧
      t.output.accept = frameOk ([h, seq, cmpl] ++ payload ++ [crcHi, crcLo]) exp tstat

/-! ### Hazards and runs -/

/-- R242: a buffer absorbed with no `CLR` before it leaves the checksum of both, and `E_CRC` is computed against
that. -/
def Obligations.MissingClearJoinsBuffers : Prop :=
  ∀ (a b : List Byte) (tstat : TStat) (seq cmpl expSeq crcHi crcLo hdr : Byte) (s : State),
    ∃ t, runInstrs [.crc16 a, .bytes b, .check tstat seq cmpl expSeq crcHi crcLo hdr] s = .next t ∧
      t.acc = crc16 (a ++ b) (a ++ b).length ∧
      t.output.err.getLsbD 3 = decide (crcHi ++ crcLo ≠ crc16 (a ++ b) (a ++ b).length)

/-- R244: absorbing the correct trailer after the payload leaves 0x0000, and the frame is then rejected unless its
checksum is zero. -/
def Obligations.AbsorbedTrailerSpoilsTheCheck : Prop :=
  ∀ (a : List Byte) (tstat : TStat) (seq cmpl expSeq hdr : Byte) (s : State),
    ∃ t, runInstrs [.crc16 a, .byte ((crc16 a a.length).extractLsb' 8 8), .byte ((crc16 a a.length).extractLsb' 0 8),
        .check tstat seq cmpl expSeq ((crc16 a a.length).extractLsb' 8 8) ((crc16 a a.length).extractLsb' 0 8) hdr] s =
          .next t ∧
      t.acc = 0x0000#16 ∧
      (crc16 a a.length ≠ 0x0000#16 → t.output.err.getLsbD 3 = true ∧ t.output.accept = false)

/-- R233, R234: two runs that begin with the same `Reset`, `CLR` or `CRC16` (which begins with `CLR`: log 19) and
differ in the ACC before it end in the same state but for the last reading of the outputs; and once an operation that
reads the outputs follows the first (any but `BYTES` of no byte: log 12), they have the same outcome, readings, faults
and refusals included. -/
def Obligations.LaunchedRunsForgetAcc : Prop :=
  ∀ (is : List Instr) (s : State) (a : Word), launched is = true →
    (∀ t, runInstrs is s = .next t →
      ∃ t', runInstrs is { s with acc := a } = .next t' ∧ t' = { t with output := t'.output }) ∧
    ((∃ j ∈ is.tail, j ≠ .bytes []) → runInstrs is { s with acc := a } = runInstrs is s)

/-- R92, R140, R141, R142, R145: a run of legal operations that begins with `CLR` is good, from every state, and ACC is
the checksum of the bytes absorbed since the last `CLR`, `Reset` or `CRC16`. -/
def Obligations.RunAccIsTheChecksum : Prop :=
  ∀ (is : List Instr) (s : State), (∀ i ∈ is, plainUse i = true) →
    ∃ t, runInstrs (.clr :: is) s = .next t ∧
      t.acc = crc16 (is.foldl absorbedAfter []) (is.foldl absorbedAfter []).length

/-! ### Reset, faults and invariants -/

/-- R231, R21: after reset ACC is 0x0000 and the output `acc` is ACC. -/
def Obligations.ResetValues : Prop :=
  State.reset.acc = 0x0000#16 ∧ State.reset.output.acc = State.reset.acc

/-- R232, R234: from power-up, whatever ACC then holds, one `Reset` or one `CLR` makes it 0x0000. -/
def Obligations.PowerUpIsCleared : Prop :=
  (∃ t, exec .reset State.powerUp = .next t ∧ t.acc = 0x0000#16) ∧
  ∃ t, exec .clr State.powerUp = .next t ∧ t.acc = 0x0000#16

/-- R240: no well-formed operation but the reserved command is ever turned away, in any state. -/
def Obligations.EveryLegalOperationCompletes : Prop :=
  ∀ (i : Instr) (s : State), i.wellFormed = true → i ≠ .ill → ∃ t, exec i s = .next t

/-- R200: `IllegalCommand` is the only fault, of a step with rst = 0 and op = 0b11 and of every such step; it names the
command word and the step's index, `ill` is 1 and ACC is held; and a run that contains a reserved command is no good
run. The index is the model's counter `steps`, whose numbering is the model's choice (log 5), and so is that the fault
holds the state the hardware is left in (log 7). -/
def Obligations.OnlyReservedCommandsFault : Prop :=
  (∀ (s : State) (r : Fault), step s = .fault r →
    ∃ (cw : CommandWord) (held : State) (p : Presented) (rest : List Presented),
      r = .illegalCommand cw s.steps held ∧ s.queue = p :: rest ∧
      (p = .command false cw ∨ ∃ i : StepInput, p = .inputs i ∧ i.rst = false ∧ cw = i.op ++ i.din) ∧
      cw.extractLsb' 8 2 = 0b11#2 ∧ held.acc = s.acc ∧ held.output.ill = true) ∧
  (∀ (s : State) (p : Presented) (rest : List Presented), s.queue = p :: rest → decode p = .ill →
    ∃ r, step s = .fault r) ∧
  ∀ (is : List Instr) (s : State), .ill ∈ is → ¬ GoodRun is s

/-- R146: the model refuses an operation only for a frame with bytes missing whose status is Ok. -/
def Obligations.OnlyShortFramesAreRefused : Prop :=
  ∀ (i : Instr) (s : State) (r : Refusal), exec i s = .refused r →
    ∃ (frame : List Byte) (e : Byte), i = .validateFrame frame e 0b00#2 ∧ frameComplete frame = false ∧
      r = .frameTooShort frame.length

/-- R26, R27, R74, R126: every step keeps the agreement of the ports and their reading. -/
def Obligations.PortsAgreementIsKept : Prop :=
  ∀ s t : State, PortsAgree s → step s = .next t → PortsAgree t

/-- The agreement holds after reset (the ports there are the model's choice: log 3, log 4). -/
def Obligations.PortsAgreeAtReset : Prop := PortsAgree State.reset

/-- R26, R74, R119: where the ports agree, the codes 5 to 7 of `kind` are not read, the lengths are those of a frame,
and an accepted reading is of a data header with status Ok. -/
def Obligations.AgreeingPortsAreConsistent : Prop :=
  ∀ s : State, PortsAgree s →
    s.output.kind.toNat ≤ 4 ∧ s.output.frameLen = s.output.remLen + 1#11 ∧
    (s.output.accept = true →
      (s.output.kind = 1#3 ∨ s.output.kind = 2#3) ∧ s.input.tstat = 0b00#2 ∧ s.input.seq = s.input.expSeq ∧
        s.input.cmpl = ~~~s.input.seq ∧ s.input.crcHi ++ s.input.crcLo = s.output.acc)
end

