-- ==== Sys2Proof/Laws/State.lean ====
section
/-! SUPPORT. One lemma for each field of State under each operation that updates it, true by unfolding. -/

namespace Sys2Proof.Machine

@[simp] theorem driveCommand_acc (op : Op) (din : Byte) (s : State) : (driveCommand op din s).acc = s.acc := rfl
@[simp] theorem driveCommand_input (op : Op) (din : Byte) (s : State) : (driveCommand op din s).input = { s.input with rst := false, op := op, din := din } := rfl
@[simp] theorem driveCommand_output (op : Op) (din : Byte) (s : State) : (driveCommand op din s).output = s.output := rfl
@[simp] theorem driveCommand_queue (op : Op) (din : Byte) (s : State) : (driveCommand op din s).queue = s.queue := rfl
@[simp] theorem driveCommand_steps (op : Op) (din : Byte) (s : State) : (driveCommand op din s).steps = s.steps := rfl
@[simp] theorem driveCommand_fresh (op : Op) (din : Byte) (s : State) : (driveCommand op din s).fresh = s.fresh := rfl

@[simp] theorem driveReset_acc (s : State) : (driveReset s).acc = s.acc := rfl
@[simp] theorem driveReset_input (s : State) : (driveReset s).input = { s.input with rst := true } := rfl
@[simp] theorem driveReset_output (s : State) : (driveReset s).output = s.output := rfl
@[simp] theorem driveReset_queue (s : State) : (driveReset s).queue = s.queue := rfl
@[simp] theorem driveReset_steps (s : State) : (driveReset s).steps = s.steps := rfl
@[simp] theorem driveReset_fresh (s : State) : (driveReset s).fresh = s.fresh := rfl

@[simp] theorem driveHeader_acc (h : Byte) (s : State) : (driveHeader h s).acc = s.acc := rfl
@[simp] theorem driveHeader_input (h : Byte) (s : State) : (driveHeader h s).input = { s.input with hdr := h } := rfl
@[simp] theorem driveHeader_output (h : Byte) (s : State) : (driveHeader h s).output = s.output := rfl
@[simp] theorem driveHeader_queue (h : Byte) (s : State) : (driveHeader h s).queue = s.queue := rfl
@[simp] theorem driveHeader_steps (h : Byte) (s : State) : (driveHeader h s).steps = s.steps := rfl
@[simp] theorem driveHeader_fresh (h : Byte) (s : State) : (driveHeader h s).fresh = s.fresh := rfl

@[simp] theorem driveCheck_acc (t : TStat) (a b c d e h : Byte) (s : State) : (driveCheck t a b c d e h s).acc = s.acc := rfl
@[simp] theorem driveCheck_input (t : TStat) (a b c d e h : Byte) (s : State) : (driveCheck t a b c d e h s).input = { s.input with tstat := t, seq := a, cmpl := b, expSeq := c, crcHi := d, crcLo := e, hdr := h } := rfl
@[simp] theorem driveCheck_output (t : TStat) (a b c d e h : Byte) (s : State) : (driveCheck t a b c d e h s).output = s.output := rfl
@[simp] theorem driveCheck_queue (t : TStat) (a b c d e h : Byte) (s : State) : (driveCheck t a b c d e h s).queue = s.queue := rfl
@[simp] theorem driveCheck_steps (t : TStat) (a b c d e h : Byte) (s : State) : (driveCheck t a b c d e h s).steps = s.steps := rfl
@[simp] theorem driveCheck_fresh (t : TStat) (a b c d e h : Byte) (s : State) : (driveCheck t a b c d e h s).fresh = s.fresh := rfl

@[simp] theorem sample_acc (s : State) : (sample s).acc = s.acc := rfl
@[simp] theorem sample_input (s : State) : (sample s).input = s.input := rfl
@[simp] theorem sample_output (s : State) : (sample s).output = outputs s.acc s.input := rfl
@[simp] theorem sample_queue (s : State) : (sample s).queue = s.queue := rfl
@[simp] theorem sample_steps (s : State) : (sample s).steps = s.steps := rfl
@[simp] theorem sample_fresh (s : State) : (sample s).fresh = s.fresh := rfl

@[simp] theorem commitStep_acc (a : Word) (s : State) : (commitStep a s).acc = a := rfl
@[simp] theorem commitStep_input (a : Word) (s : State) : (commitStep a s).input = s.input := rfl
@[simp] theorem commitStep_output (a : Word) (s : State) : (commitStep a s).output = outputs s.acc s.input := rfl
@[simp] theorem commitStep_queue (a : Word) (s : State) : (commitStep a s).queue = s.queue := rfl
@[simp] theorem commitStep_steps (a : Word) (s : State) : (commitStep a s).steps = s.steps + 1 := rfl
@[simp] theorem commitStep_fresh (a : Word) (s : State) : (commitStep a s).fresh = s.fresh := rfl

@[simp] theorem clearStep_acc (din : Byte) (s : State) : (clearStep din s).acc = Config.crcInit := rfl
@[simp] theorem clearStep_input (din : Byte) (s : State) : (clearStep din s).input = { s.input with rst := false, op := 0b01#2, din := din } := rfl
@[simp] theorem clearStep_output (din : Byte) (s : State) : (clearStep din s).output = outputs s.acc { s.input with rst := false, op := 0b01#2, din := din } := rfl
@[simp] theorem clearStep_queue (din : Byte) (s : State) : (clearStep din s).queue = s.queue := rfl
@[simp] theorem clearStep_steps (din : Byte) (s : State) : (clearStep din s).steps = s.steps + 1 := rfl
@[simp] theorem clearStep_fresh (din : Byte) (s : State) : (clearStep din s).fresh = s.fresh := rfl

@[simp] theorem absorbStep_acc (b : Byte) (s : State) : (absorbStep b s).acc = crcByte s.acc b := rfl
@[simp] theorem absorbStep_input (b : Byte) (s : State) : (absorbStep b s).input = { s.input with rst := false, op := 0b10#2, din := b } := rfl
@[simp] theorem absorbStep_output (b : Byte) (s : State) : (absorbStep b s).output = outputs s.acc { s.input with rst := false, op := 0b10#2, din := b } := rfl
@[simp] theorem absorbStep_queue (b : Byte) (s : State) : (absorbStep b s).queue = s.queue := rfl
@[simp] theorem absorbStep_steps (b : Byte) (s : State) : (absorbStep b s).steps = s.steps + 1 := rfl
@[simp] theorem absorbStep_fresh (b : Byte) (s : State) : (absorbStep b s).fresh = s.fresh := rfl

@[simp] theorem classify_acc (h : Byte) (s : State) : (classify h s).acc = s.acc := rfl
@[simp] theorem classify_input (h : Byte) (s : State) : (classify h s).input = { s.input with hdr := h } := rfl
@[simp] theorem classify_output (h : Byte) (s : State) : (classify h s).output = outputs s.acc { s.input with hdr := h } := rfl
@[simp] theorem classify_queue (h : Byte) (s : State) : (classify h s).queue = s.queue := rfl
@[simp] theorem classify_steps (h : Byte) (s : State) : (classify h s).steps = s.steps := rfl
@[simp] theorem classify_fresh (h : Byte) (s : State) : (classify h s).fresh = s.fresh := rfl

@[simp] theorem runCheck_acc (t : TStat) (a b c d e h : Byte) (s : State) : (runCheck t a b c d e h s).acc = s.acc := rfl
@[simp] theorem runCheck_input (t : TStat) (a b c d e h : Byte) (s : State) : (runCheck t a b c d e h s).input = { s.input with tstat := t, seq := a, cmpl := b, expSeq := c, crcHi := d, crcLo := e, hdr := h } := rfl
@[simp] theorem runCheck_output (t : TStat) (a b c d e h : Byte) (s : State) : (runCheck t a b c d e h s).output = outputs s.acc { s.input with tstat := t, seq := a, cmpl := b, expSeq := c, crcHi := d, crcLo := e, hdr := h } := rfl
@[simp] theorem runCheck_queue (t : TStat) (a b c d e h : Byte) (s : State) : (runCheck t a b c d e h s).queue = s.queue := rfl
@[simp] theorem runCheck_steps (t : TStat) (a b c d e h : Byte) (s : State) : (runCheck t a b c d e h s).steps = s.steps := rfl
@[simp] theorem runCheck_fresh (t : TStat) (a b c d e h : Byte) (s : State) : (runCheck t a b c d e h s).fresh = s.fresh := rfl

@[simp] theorem spendFresh_acc (s : State) : (spendFresh s).acc = s.acc := rfl
@[simp] theorem spendFresh_input (s : State) : (spendFresh s).input = s.input := rfl
@[simp] theorem spendFresh_output (s : State) : (spendFresh s).output = s.output := rfl
@[simp] theorem spendFresh_queue (s : State) : (spendFresh s).queue = s.queue := rfl
@[simp] theorem spendFresh_steps (s : State) : (spendFresh s).steps = s.steps := rfl
@[simp] theorem spendFresh_fresh (s : State) : (spendFresh s).fresh = s.fresh + 1 := rfl

@[simp] theorem outputs_acc (acc : Word) (i : StepInput) : (outputs acc i).acc = acc := rfl
@[simp] theorem outputs_ill (acc : Word) (i : StepInput) : (outputs acc i).ill = illOf i := rfl
@[simp] theorem outputs_kind (acc : Word) (i : StepInput) : (outputs acc i).kind = kindCode (kindOf i.hdr) := rfl
@[simp] theorem outputs_payLen (acc : Word) (i : StepInput) : (outputs acc i).payLen = payLen i.hdr := rfl
@[simp] theorem outputs_remLen (acc : Word) (i : StepInput) : (outputs acc i).remLen = remLen i.hdr := rfl
@[simp] theorem outputs_frameLen (acc : Word) (i : StepInput) : (outputs acc i).frameLen = frameLen i.hdr := rfl
@[simp] theorem outputs_err (acc : Word) (i : StepInput) : (outputs acc i).err = errBits acc i := rfl
@[simp] theorem outputs_accept (acc : Word) (i : StepInput) : (outputs acc i).accept = (errBits acc i == 0b00000#5) := rfl

end Sys2Proof.Machine
end

