-- ==== Sys2Proof/Laws/Ops.lean ====
section
/-! SUPPORT. What each shared operation can do, said once. -/

namespace Sys2Proof.Machine

@[simp] theorem crcFold_nil (a : Word) : crcFold a [] = a := rfl

@[simp] theorem crcFold_cons (a : Word) (b : Byte) (s : List Byte) : crcFold a (b :: s) = crcFold (crcByte a b) s := rfl

/-- `absorbAll` folds the bytes into ACC. -/
@[simp] theorem absorbAll_acc (bs : List Byte) (s : State) : (absorbAll bs s).acc = crcFold s.acc bs := by
  induction bs generalizing s with
  | nil => rfl
  | cons b bs ih => simp [absorbAll, ih]

/-- `absorbAll` is one engine step for each byte. -/
@[simp] theorem absorbAll_steps (bs : List Byte) (s : State) : (absorbAll bs s).steps = s.steps + bs.length := by
  induction bs generalizing s with
  | nil => rfl
  | cons b bs ih => simp [absorbAll, ih]; omega

@[simp] theorem absorbAll_queue (bs : List Byte) (s : State) : (absorbAll bs s).queue = s.queue := by
  induction bs generalizing s with
  | nil => rfl
  | cons b bs ih => simp [absorbAll, ih]

@[simp] theorem absorbAll_fresh (bs : List Byte) (s : State) : (absorbAll bs s).fresh = s.fresh := by
  induction bs generalizing s with
  | nil => rfl
  | cons b bs ih => simp [absorbAll, ih]

/-- `absorbAll` drives no port of the validator. -/
theorem absorbAll_input (bs : List Byte) (s : State) :
    ∃ rst op din, (absorbAll bs s).input = { s.input with rst := rst, op := op, din := din } := by
  induction bs generalizing s with
  | nil => exact ⟨s.input.rst, s.input.op, s.input.din, rfl⟩
  | cons b bs ih =>
    obtain ⟨r, o, d, h⟩ := ih (absorbStep b s)
    exact ⟨r, o, d, by simp [absorbAll, h]⟩

/-- Raising the fault answers no next state. -/
theorem raiseIllegalCommand_ne_next (s t : State) : raiseIllegalCommand s ≠ .next t := by
  simp [raiseIllegalCommand]

/-- A byte that the frame has is read whatever the transport status. -/
theorem frameByte_of_lt {frame : List Byte} {off : Nat} (h : off < frame.length) (tstat : TStat) (fresh : Nat) :
    frameByte frame tstat fresh off = .ok frame[off] := by
  simp [frameByte, List.getElem?_eq_getElem h]

/-- With a status other than Ok every offset reads, a free byte where the frame has none. -/
theorem frameByte_of_status {tstat : TStat} (h : tstat ≠ 0b00#2) (frame : List Byte) (fresh off : Nat) :
    frameByte frame tstat fresh off = .ok (suppliedByte frame fresh off) := by
  unfold frameByte suppliedByte
  cases hf : frame[off]? <;> simp [h, List.getD, hf]

/-- Where every byte can be read, so can any run of them. -/
theorem memReadRun_eq {frame : List Byte} {tstat : TStat} {fresh : Nat} (n : Nat) {off : Nat}
    (h : ∀ k, off ≤ k → k < off + n → memRead1 frame tstat fresh k = .ok (suppliedByte frame fresh k)) :
    memReadRun frame tstat fresh off n = .ok ((List.range' off n).map (suppliedByte frame fresh)) := by
  induction n generalizing off with
  | zero => rfl
  | succ n ih =>
    have hrest := @ih (off + 1) fun k h1 h2 => h k (by omega) (by omega)
    simp only [memReadRun, h off (Nat.le_refl _) (by omega), hrest, List.range'_succ, List.map_cons]

/-- A data frame whose bytes can all be read gives its fields, a free byte wherever it has none. -/
theorem dataFields_eq {frame : List Byte} {tstat : TStat} {fresh n : Nat}
    (h : ∀ k, k < n + 5 → memRead1 frame tstat fresh k = .ok (suppliedByte frame fresh k)) :
    dataFields frame tstat fresh n = .ok
      { seq := suppliedByte frame fresh 1
        cmpl := suppliedByte frame fresh 2
        payload := (List.range' 3 n).map (suppliedByte frame fresh)
        crc := checksumReceived (suppliedByte frame fresh (n + 3)) (suppliedByte frame fresh (n + 4)) } := by
  have hrun := memReadRun_eq (frame := frame) (tstat := tstat) (fresh := fresh) n (off := 3)
    fun k _ h2 => h k (by omega)
  simp only [dataFields, Config.preLen, hrun, h 1 (by omega), h 2 (by omega), memRead2, h (n + 3) (by omega),
    h (n + 3 + 1) (by omega)]

end Sys2Proof.Machine
end

