-- ==== Sys2Proof/Laws/PerInstr.lean ====
section
/-! SUPPORT. Statements made for every constructor of `Instr`: a well-formed operation's encoding is of its own row of
spec/opcode_table.json. -/

namespace Sys2Proof.Laws.TableRow

open Sys2Proof.Machine

/-- The encoding of a well-formed operation has its row's format, match and mask, and its operand in place. -/
def Statement (i : Instr) : Prop := i.wellFormed = true → rowMatches i (encode i) = true

theorem nop : Statement .nop := fun _ => rfl

theorem clr : Statement .clr := fun _ => rfl

theorem byte (b : Byte) : Statement (.byte b) := fun _ => by
  revert b
  decide

theorem ill : Statement .ill := fun _ => rfl

theorem reset : Statement .reset := fun _ => rfl

theorem classifySoh : Statement .classifySoh := fun _ => rfl

theorem classifyStx : Statement .classifyStx := fun _ => rfl

theorem classifyEot : Statement .classifyEot := fun _ => rfl

theorem classifyCan : Statement .classifyCan := fun _ => rfl

theorem classifyUnknown (h : Byte) : Statement (.classifyUnknown h) := fun hw => by
  simp [Instr.wellFormed] at hw
  simp [rowMatches, encode, hw]

theorem check (tstat : TStat) (seq cmpl expSeq crcHi crcLo hdr : Byte) :
    Statement (.check tstat seq cmpl expSeq crcHi crcLo hdr) := fun _ => by
  simp [rowMatches, encode, bundleWord]

theorem crc16 (buf : List Byte) : Statement (.crc16 buf) := fun _ => by
  simp [rowMatches, encode]

theorem bytes (buf : List Byte) : Statement (.bytes buf) := fun _ => by
  simp [rowMatches, encode]

theorem validateFrame (frame : List Byte) (exp : Byte) (tstat : TStat) :
    Statement (.validateFrame frame exp tstat) := fun _ => by
  simp [rowMatches, encode]

end Sys2Proof.Laws.TableRow
end

