-- ==== Sys2Proof/Laws/Runs.lean ====
section
/-! SUPPORT. The equations of a run, and what an operation does not depend on. -/

namespace Sys2Proof.Safety

open Sys2Proof.Machine

@[simp] theorem runPresented_zero (s : State) : runPresented 0 s = .next s := rfl

/-- One step of any machine's run. -/
theorem run_succ (M : Host.Core) {s t : M.State} (h : M.step s = .next t) (k : Nat) : M.run (k + 1) s = M.run k t := by
  simp only [Host.Core.run, h]

theorem runPresented_succ {s t : State} (h : step s = .next t) (k : Nat) :
    runPresented (k + 1) s = runPresented k t :=
  run_succ Sys2Proof.core h k

@[simp] theorem runInstrs_nil (s : State) : runInstrs [] s = .next s := rfl

theorem runInstrs_cons {i : Instr} {s t : State} (h : exec i s = .next t) (is : List Instr) :
    runInstrs (i :: is) s = runInstrs is t := by
  simp only [runInstrs, h]

/-- A run of a list and then another goes on from where the first ends. -/
theorem runInstrs_append {is : List Instr} {s t : State} (h : runInstrs is s = .next t) (js : List Instr) :
    runInstrs (is ++ js) s = runInstrs js t := by
  induction is generalizing s with
  | nil => cases h; rfl
  | cons i is ih =>
    simp only [List.cons_append, runInstrs] at h ⊢
    split at h
    · exact ih h
    · cases h
    · cases h

/-- R27: no operation depends on the outputs read before it; all but `BYTES` of no byte read them anew. -/
theorem exec_output {i : Instr} (h : i ≠ .bytes []) (s : State) (o : StepOutput) :
    exec i { s with output := o } = exec i s := by
  cases i with
  | bytes buf =>
    cases buf with
    | nil => exact absurd rfl h
    | cons b bs => rfl
  | validateFrame frame e tstat => simp only [exec, execValidateFrame, validateData, validateControl]; rfl
  | _ => rfl

end Sys2Proof.Safety
end

