-- ==== Sys2Proof/Tests/Slice0.lean ====
section
/-! SUPPORT. Tests: well-formedness, decoding of words written out from spec/30, single steps against spec/95, and a
witness for the hypotheses of each obligation. -/

namespace Sys2Proof.Tests

open Sys2Proof.Machine Sys2Proof.Safety

/-- The next state of an outcome. -/
def nextOf : Host.Outcome State Fault Refusal → Option State
  | .next t => some t
  | .fault _ => none
  | .refused _ => none

/-- The reset state with this ACC. -/
def withAcc (a : Word) : State := { State.reset with acc := a }

/-- The reset state with this ACC and this to present. -/
def presenting (a : Word) (q : List Presented) : State := { State.reset with acc := a, queue := q }

/-! ### Well-formedness -/

/-- R115: the Unknown outcome is not for a known header. -/
theorem test_wf_unknown_refuses_known : (Instr.classifyUnknown 0x01#8).wellFormed = false ∧
    (Instr.classifyUnknown 0x02#8).wellFormed = false ∧ (Instr.classifyUnknown 0x04#8).wellFormed = false ∧
    (Instr.classifyUnknown 0x18#8).wellFormed = false ∧ (Instr.classifyUnknown 0x81#8).wellFormed = true := by decide

/-- R146: a frame with bytes missing is not presented with status Ok. -/
theorem test_wf_short_frame : (Instr.validateFrame [0x01#8] 0x01#8 0b00#2).wellFormed = false ∧
    (Instr.validateFrame [] 0x01#8 0b00#2).wellFormed = false ∧
    (Instr.validateFrame [0x01#8] 0x01#8 0b01#2).wellFormed = true ∧
    (Instr.validateFrame [0x04#8] 0x01#8 0b00#2).wellFormed = true := by decide

/-- Every encoding is of its row: the per-instruction family covers an operation with an operand. -/
theorem test_row_of_byte : rowMatches (.byte 0x31#8) (.command false 0b1000110001#10) = true ∧
    rowMatches (.byte 0x32#8) (.command false 0b1000110001#10) = false := by decide

/-! ### Decoding, words written out from spec/30 R60, R64, R65, R66 -/

theorem test_decode_nop : decodeTableWord 16 0b0010101011 = some .nop := by decide
theorem test_decode_clr : decodeTableWord 16 0b0111111111 = some .clr := by decide
theorem test_decode_byte : decodeTableWord 16 0b1000110001 = some (.byte 0x31#8) := by decide
theorem test_decode_ill : decodeTableWord 16 0b1100110001 = some .ill := by decide
theorem test_decode_reset : decodeTableWord 1 0b1 = some .reset ∧ decodeTableWord 1 0b0 = none := by decide
theorem test_decode_soh : decodeTableWord 8 0b00000001 = some .classifySoh := by decide
theorem test_decode_stx : decodeTableWord 8 0b00000010 = some .classifyStx := by decide
theorem test_decode_eot : decodeTableWord 8 0b00000100 = some .classifyEot := by decide
theorem test_decode_can : decodeTableWord 8 0b00011000 = some .classifyCan := by decide
theorem test_decode_unknown : decodeTableWord 8 0b10000001 = some (.classifyUnknown 0x81#8) := by decide

/-- R64: tstat 01, seq 01, cmpl FE, exp 02, crc_hi E8, crc_lo 0A, hdr 01. -/
theorem test_decode_check :
    decodeTableWord 56 0b01000000011111111000000010111010000000101000000001 =
      some (.check 0b01#2 0x01#8 0xFE#8 0x02#8 0xE8#8 0x0A#8 0x01#8) := by decide

/-- R140: the words of `CRC16 "12"`. -/
theorem test_decode_crc16 : expand 0 (.crc16 [0x31#8, 0x32#8]) =
    [.command false 0x100#10, .command false 0x231#10, .command false 0x232#10] ∧
    decode (.crc16 [0x31#8]) = .crc16 [0x31#8] := by decide

/-- R141: the words of `BYTES "12"`. -/
theorem test_decode_bytes : expand 0 (.bytes [0x31#8, 0x32#8]) =
    [.command false 0x231#10, .command false 0x232#10] ∧ decode (.bytes [0x31#8]) = .bytes [0x31#8] := by decide

theorem test_decode_validate : decode (.validateFrame [0x04#8] 0x01#8 0b00#2) = .validateFrame [0x04#8] 0x01#8 0b00#2 :=
  rfl

/-- R60: a number above ten bits is no command word, and a width of no format is refused by name. -/
theorem test_decode_rejects : decodeTableWord 16 0x400 = none ∧
    presentNumber .e 0x400 = .error (.tooWide .e 0x400) ∧ presentTableWord 24 0 = .error (.noSuchWidth 24) ∧
    presentNumber .r 0 = .error .notReset := ⟨rfl, rfl, rfl, rfl⟩

/-! ### The checksum functions (spec/95 section 2.1, 2.2) -/

theorem test_crc_round : crcRound 0x8001#16 = 0x1023#16 ∧ crcRound 0x8810#16 = 0x0001#16 ∧
    crcRound 0x7FFF#16 = 0xFFFE#16 ∧ crcRound 0x9021#16 = 0x3063#16 := by decide

theorem test_crc_byte : crcByte 0x1234#16 0x56#8 = 0x3C40#16 ∧ crcByte 0xFFFF#16 0x00#8 = 0xE1F0#16 := by
  decide +kernel

/-- spec/95 section 2.3: "ABCD", and a buffer read in pieces. -/
theorem test_crc16_abcd : Machine.crc16 [0x41#8, 0x42#8, 0x43#8, 0x44#8] 4 = 0x3B3A#16 ∧
    crcFold 0x567B#16 [0x43#8, 0x44#8] = 0x3B3A#16 ∧ Machine.crc16 [0x43#8, 0x44#8] 2 = 0x50DF#16 := by
  decide +kernel

set_option maxRecDepth 100000 in
/-- spec/95 section 2.3: "inc128", the payload 00 01 ... 7F. -/
theorem test_crc16_inc128 :
    Machine.crc16 ((List.range 128).map fun k => BitVec.ofNat 8 k) 128 = 0xE80A#16 := by
  decide +kernel

/-! ### Engine commands (spec/95 section 2.4) -/

theorem test_nop : (nextOf (exec .nop (withAcc 0x31C3#16))).map (fun t => (t.acc, t.output.ill, t.output.acc)) =
    some (0x31C3#16, false, 0x31C3#16) := by decide

theorem test_clr : (nextOf (exec .clr (withAcc 0x31C3#16))).map (fun t => (t.acc, t.output.ill, t.output.acc)) =
    some (0x0000#16, false, 0x31C3#16) := by decide

theorem test_clr_with_din : (nextOf (step (presenting 0x31C3#16 [.command false 0x1FF#10]))).map
    (fun t => (t.acc, t.input.din)) = some (0x0000#16, 0xFF#8) := by decide

theorem test_byte : (nextOf (exec (.byte 0x32#8) (withAcc 0x2672#16))).map (fun t => (t.acc, t.output.acc)) =
    some (0x20B5#16, 0x2672#16) := by decide +kernel

theorem test_byte_high_byte_of_acc : (nextOf (exec (.byte 0xFF#8) (withAcc 0xFFFF#16))).map (fun t => t.acc) =
    some 0xFF00#16 := by decide +kernel

/-- The reserved word 0x331: ACC held, `ill` = 1, the fault names the word. -/
theorem test_ill : ∃ held, step (presenting 0x20B5#16 [.command false 0x331#10]) =
    .fault (.illegalCommand 0x331#10 0 held) ∧ held.acc = 0x20B5#16 ∧ held.output.ill = true :=
  ⟨_, rfl, rfl, rfl⟩

/-- rst = 1 with op = 0b11: a `Reset`, `ill` = 0, the output `acc` the old ACC. -/
theorem test_reset_overrides_reserved : (nextOf (step (presenting 0x20B5#16 [.command true 0x331#10]))).map
    (fun t => (t.acc, t.output.ill, t.output.acc)) = some (0x0000#16, false, 0x20B5#16) := by decide

/-! ### CLASSIFY (spec/95 section 2.5) -/

/-- What a query of the header reads. -/
def headerReading (i : Instr) : Option (Nat × Nat × Nat × Nat × Word) :=
  (nextOf (exec i (withAcc 0x58E5#16))).map fun t =>
    (t.output.kind.toNat, t.output.payLen.toNat, t.output.remLen.toNat, t.output.frameLen.toNat, t.acc)

theorem test_soh : headerReading .classifySoh = some (1, 128, 132, 133, 0x58E5#16) := by decide
theorem test_stx : headerReading .classifyStx = some (2, 1024, 1028, 1029, 0x58E5#16) := by decide
theorem test_eot : headerReading .classifyEot = some (3, 0, 0, 1, 0x58E5#16) := by decide
theorem test_can : headerReading .classifyCan = some (4, 0, 0, 1, 0x58E5#16) := by decide
theorem test_unknown : headerReading (.classifyUnknown 0x03#8) = some (0, 0, 0, 1, 0x58E5#16) := by decide

/-- spec/90 C2: the source's own triple 133, 1029, 0. -/
theorem test_expected_len_src : expectedLenSrc 0x01#8 = 133#11 ∧ expectedLenSrc 0x02#8 = 1029#11 ∧
    expectedLenSrc 0x04#8 = 0#11 := by decide

/-! ### CHECK (spec/95 section 2.6) -/

/-- What `CHECK` reads with this ACC. -/
def verdict (a : Word) (i : Instr) : Option (BitVec 5 × Bool) :=
  (nextOf (exec i (withAcc a))).map fun t => (t.output.err, t.output.accept)

theorem test_check_passes :
    verdict 0xE80A#16 (.check 0b00#2 0x01#8 0xFE#8 0x01#8 0xE8#8 0x0A#8 0x01#8) = some (0b00000#5, true) ∧
    verdict 0x0000#16 (.check 0b00#2 0xFF#8 0x00#8 0xFF#8 0x00#8 0x00#8 0x02#8) = some (0b00000#5, true) := by decide

theorem test_check_accumulates :
    verdict 0xE80A#16 (.check 0b01#2 0x02#8 0xFE#8 0x01#8 0x00#8 0x00#8 0x18#8) = some (0b11111#5, false) ∧
    verdict 0xE80A#16 (.check 0b00#2 0x02#8 0xFE#8 0x01#8 0xE8#8 0x0A#8 0x01#8) = some (0b00110#5, false) ∧
    verdict 0xE80A#16 (.check 0b00#2 0x01#8 0xFE#8 0x01#8 0x0A#8 0xE8#8 0x01#8) = some (0b01000#5, false) ∧
    verdict 0x1234#16 (.check 0b00#2 0x80#8 0x80#8 0x80#8 0x12#8 0x34#8 0x01#8) = some (0b00100#5, false) := by decide

/-- R127: the causes of `err` = 0b11111, a time-out among them, and the tags they have. -/
theorem test_tags : (causesOf 0b11111#5).map sourceTag =
    [some .uart, some .number, some .number, some .crc, none] ∧
    (causesOf 0b01001#5).map (taxonomy 0b01#2) = [some .transportTimeout, some .checksumMismatch] ∧
    taxonomy 0b11#2 .uart = some .transportFraming := by decide

/-! ### The pseudo-operations (spec/42, spec/95) -/

theorem test_crc16_op : (nextOf (exec (.crc16 [0x41#8, 0x42#8]) (withAcc 0xFFFF#16))).map (fun t => (t.acc, t.steps)) =
    some (0x567B#16, 3) := by decide +kernel

theorem test_bytes_op : (nextOf (exec (.bytes [0x43#8, 0x44#8]) (withAcc 0x567B#16))).map (fun t => (t.acc, t.steps)) =
    some (0x3B3A#16, 2) := by decide +kernel

set_option maxRecDepth 100000 in
/-- spec/95 program P2: the good SmallData frame of payload inc128. -/
theorem test_validate_small_frame :
    (nextOf (exec (.validateFrame
      ([0x01#8, 0x01#8, 0xFE#8] ++ (List.range 128).map (fun k => BitVec.ofNat 8 k) ++ [0xE8#8, 0x0A#8]) 0x01#8 0b00#2)
      (withAcc 0xFFFF#16))).map (fun t => (t.acc, t.output.err, t.output.accept, t.output.kind, t.steps)) =
    some (0xE80A#16, 0b00000#5, true, 1#3, 129) := by
  decide +kernel

/-- R145: a control frame leaves ACC and is not accepted. -/
theorem test_validate_eot : ∃ t, exec (.validateFrame [0x04#8] 0x01#8 0b00#2) (withAcc 0x58E5#16) = .next t ∧
    t.acc = 0x58E5#16 ∧ t.output.kind = 3#3 ∧ t.steps = 0 := ⟨_, rfl, rfl, rfl, rfl⟩

/-- R44: no offset other than 0 of a control frame is read; R146: nor beyond a frame said to be complete. -/
theorem test_mem_read_refused : memRead1 [0x04#8, 0xAA#8] 0b00#2 0 1 = .error (.controlFrameOffset 1) ∧
    memRead1 [0x01#8, 0xAA#8] 0b00#2 0 2 = .error (.frameTooShort 2) ∧
    memRead2 [0x01#8, 0xE8#8, 0x0A#8] 0b00#2 0 1 = .ok 0xE80A#16 := ⟨rfl, rfl, rfl⟩

/-! ### Notation, reset, the table's words -/

/-- spec/95 programs P1, P2, P5. -/
theorem test_statement_text : statementText (.check 0b00#2 0x01#8 0xFE#8 0x01#8 0xE8#8 0x0A#8 0x01#8) =
      "CHECK tstat=00 seq=01 cmpl=FE exp=01 crc=E80A hdr=01" ∧
    statementText (.byte 0x7F#8) = "BYTE 0x7F" ∧ statementText (.classifyUnknown 0x43#8) = "CLASSIFY 0x43" := by
  decide +kernel

/-- R231, and the outputs as the functions of the ports at 0 (log 4). -/
theorem test_reset : State.reset.acc = 0x0000#16 ∧ State.reset.output =
    { acc := 0x0000#16, ill := false, kind := 0#3, payLen := 0#11, remLen := 0#11, frameLen := 1#11,
      err := 0b10100#5, accept := false } := by decide

/-- The host's word is what the next step runs. -/
theorem test_fetch_word : (nextOf (step (State.reset.withFetchWord 16 0x231))).map (fun t => t.acc) = some 0x2672#16 := by
  decide +kernel

/-! ### Witnesses: the hypotheses of each obligation can be met -/

theorem witness_DecodeEncodeRoundTrip : (Instr.classifyUnknown 0x43#8).wellFormed = true ∧
    (Instr.validateFrame [] 0x01#8 0b10#2).wellFormed = true ∧ Instr.ill.wellFormed = true := by decide

theorem witness_CommandWordsByMatchAndMask : 0x0FF#10 &&& 0x300#10 = 0x000#10 ∧ 0x1FF#10 &&& 0x300#10 = 0x100#10 ∧
    0x2FF#10 &&& 0x300#10 = 0x200#10 ∧ 0x3FF#10 &&& 0x300#10 = 0x300#10 := by decide

/-- A `StepInput` with every validator port away from the idle one's. -/
def someInput (rst : Bool) (op : Op) (din : Byte) : StepInput where
  rst := rst
  op := op
  din := din
  hdr := 0x01#8
  tstat := 0b00#2
  seq := 0x01#8
  cmpl := 0xFE#8
  expSeq := 0x01#8
  crcHi := 0xE8#8
  crcLo := 0x0A#8

theorem witness_StepRunsDecodedOperation :
    (∃ t, step (presenting 0x0000#16 [.command false 0x1FF#10]) = .next t ∧ t.input.din = 0xFF#8) ∧
    (∃ t, step (presenting 0x0000#16 [.inputs (someInput true 0b11#2 0x00#8)]) = .next t ∧ t.input.seq = 0x01#8) ∧
    (∃ t, step (presenting 0x0000#16 [.header 0x81#8]) = .next t ∧ t.input.hdr = 0x81#8) ∧
    (∃ t, step (presenting 0x0000#16 [.bundle 0x3FFFFFFFFFFFF#50]) = .next t ∧ t.input.tstat = 0b11#2) ∧
    ∃ t, step (presenting 0x0000#16 [.bytes [0x31#8]]) = .next t ∧ t.queue = [] :=
  ⟨⟨_, rfl, rfl⟩, ⟨_, rfl, rfl⟩, ⟨_, rfl, rfl⟩, ⟨_, rfl, rfl⟩, ⟨_, rfl, rfl⟩⟩

theorem witness_FetchWordRunsNext : decodeTableWord 16 0x2FF = some (.byte 0xFF#8) ∧
    decodeTableWord 1 1 = some .reset ∧ decodeTableWord 8 0 = some (.classifyUnknown 0x00#8) ∧
    decodeTableWord 56 0 = some (.check 0#2 0#8 0#8 0#8 0#8 0#8 0#8) := by decide

theorem witness_NoPresentationNoStep : State.reset.queue = [] := rfl

theorem witness_StepIsTheBlockFunction :
    (presenting 0x2672#16 [.inputs (someInput false 0b10#2 0x32#8)]).queue = .inputs (someInput false 0b10#2 0x32#8) :: [] ∧
    ¬((someInput false 0b10#2 0x32#8).rst = false ∧ (someInput false 0b10#2 0x32#8).op = 0b11#2) ∧
    ¬((someInput true 0b11#2 0x32#8).rst = false ∧ (someInput true 0b11#2 0x32#8).op = 0b11#2) ∧
    ((someInput false 0b11#2 0x32#8).rst = false ∧ (someInput false 0b11#2 0x32#8).op = 0b11#2) := by decide

theorem witness_AccDependsOnEngineInputsOnly :
    ∃ t, step (presenting 0x2672#16 [.inputs (someInput false 0b10#2 0x32#8)]) = .next t ∧
    (presenting 0x2672#16 [.inputs { idleInput with op := 0b10#2, din := 0x32#8 }]).acc = 0x2672#16 ∧
    (someInput false 0b10#2 0x32#8).op = ({ idleInput with op := 0b10#2, din := 0x32#8 } : StepInput).op :=
  ⟨_, rfl, rfl, rfl⟩

theorem witness_IgnoredBitsHaveNoEffect :
    ((0x100#10 : CommandWord).extractLsb' 8 2 = (0x1FF#10 : CommandWord).extractLsb' 8 2 ∧
      (0x100#10 : CommandWord).extractLsb' 8 2 ≠ 0b10#2) ∧
    (∃ t, step { withAcc 0x31C3#16 with queue := .command false 0x100#10 :: [] } = .next t) ∧
    ∃ t, step { withAcc 0x31C3#16 with queue := .command true 0x3FF#10 :: [] } = .next t :=
  ⟨by decide, ⟨_, rfl⟩, ⟨_, rfl⟩⟩

theorem witness_ByteAbsorbs : ∃ t, exec (.byte 0x58#8) (withAcc 0x58E5#16) = .next t ∧
    0x58#8 = (withAcc 0x58E5#16).acc.extractLsb' 8 8 := ⟨_, rfl, by decide⟩

theorem witness_ReservedCommandFaults :
    (presenting 0x20B5#16 [.command false 0x3FF#10]).queue = .command false (0b11#2 ++ 0xFF#8) :: [] ∧
    (presenting 0x20B5#16 [.command true 0x300#10]).queue = .command true (0b11#2 ++ 0x00#8) :: [] ∧
    ∃ cw n held t, exec .ill (presenting 0x20B5#16 [.inputs (someInput false 0b10#2 0x31#8)]) =
      .fault (.illegalCommand cw n held) ∧ held.queue = .inputs (someInput false 0b10#2 0x31#8) :: [] ∧
      step held = .next t := ⟨rfl, rfl, _, _, _, _, rfl, rfl, rfl⟩

theorem witness_LegalCommandAfterReserved :
    ∃ cw n held, exec .ill (withAcc 0x20B5#16) = .fault (.illegalCommand cw n held) := ⟨_, _, _, rfl⟩

theorem witness_ResetClearsAcc : (someInput true 0b11#2 0xFF#8).rst = true := rfl

theorem witness_EngineCommandFrame : (∃ t, exec .nop (withAcc 1#16) = .next t) ∧
    (∃ t, exec .clr (withAcc 1#16) = .next t) ∧ (∃ t, exec .reset (withAcc 1#16) = .next t) ∧
    (∃ t, exec (.byte 0x00#8) (withAcc 1#16) = .next t) ∧
    (∃ t, step (presenting 1#16 [.command false 0x0FF#10]) = .next t ∧ t.input.din = 0xFF#8) ∧
    ∃ t, step (presenting 1#16 [.command true 0x3FF#10]) = .next t ∧ t.input.op = 0b11#2 :=
  ⟨⟨_, rfl⟩, ⟨_, rfl⟩, ⟨_, rfl⟩, ⟨_, rfl⟩, ⟨_, rfl, rfl⟩, ⟨_, rfl, rfl⟩⟩

theorem witness_CrcRoundBitForm : (0x8000#16 : Word).getLsbD 15 = true ∧ (0x7FFF#16 : Word).getLsbD 15 = false := by
  decide

theorem witness_CrcSixteenIsTheLoop : 0 < [0x31#8].length ∧
    ([0x31#8, 0x00#8] : List Byte).take 1 = ([0x31#8, 0xFF#8] : List Byte).take 1 := by decide

theorem witness_ChecksumIsLinear : ([0x41#8] : List Byte).length = ([0x31#8] : List Byte).length := rfl

theorem witness_SingleBitChangesAreSeen : 0 < 8 ∧ 7 < 8 := by decide

theorem witness_OtherHeadersAreUnknown : (0x81#8 : Byte) ≠ 0x01#8 ∧ (0x81#8 : Byte) ≠ 0x02#8 ∧
    (0x81#8 : Byte) ≠ 0x04#8 ∧ (0x81#8 : Byte) ≠ 0x18#8 := by decide

theorem witness_LengthOutputsInEveryStep :
    ∃ t, step (presenting 0x0000#16 [.inputs (someInput false 0b00#2 0x00#8)]) = .next t ∧
      t.output.payLen = 128#11 := ⟨_, rfl, by decide⟩

theorem witness_AcceptIsTheConjunction :
    ∃ t, exec (.check 0b00#2 0x01#8 0xFE#8 0x01#8 0xE8#8 0x0A#8 0x01#8) (withAcc 0xE80A#16) = .next t ∧
      t.output.accept = true := ⟨_, rfl, by decide⟩

theorem witness_ComplementCheckForms :
    ∃ t, exec (.check 0b00#2 0xFF#8 0x00#8 0x01#8 0xE8#8 0x0A#8 0x01#8) (withAcc 0x0000#16) = .next t ∧
      t.output.err.getLsbD 2 = false ∧ (0x01#8 : Byte).toNat + (0xFF#8 : Byte).toNat ≠ 255 :=
  ⟨_, rfl, by decide, by decide⟩

theorem witness_BadHeaderOrTransportRejects :
    (∃ t, exec (.check 0b11#2 0x01#8 0xFE#8 0x01#8 0xE8#8 0x0A#8 0x01#8) (withAcc 0xE80A#16) = .next t) ∧
    (∃ t, exec (.check 0b00#2 0x01#8 0xFE#8 0x01#8 0xE8#8 0x0A#8 0x03#8) (withAcc 0xE80A#16) = .next t) ∧
    (0b11#2 : TStat) ≠ 0b00#2 ∧ (0x03#8 : Byte) ≠ 0x01#8 ∧ (0x03#8 : Byte) ≠ 0x02#8 :=
  ⟨⟨_, rfl⟩, ⟨_, rfl⟩, by decide, by decide, by decide⟩

theorem witness_QueriesAreIdempotent : (∃ t, exec .classifyCan (withAcc 1#16) = .next t) ∧
    (∃ t, exec (.classifyUnknown 0x00#8) (withAcc 1#16) = .next t) ∧
    ∃ t, exec (.check 0b00#2 0x01#8 0xFE#8 0x01#8 0xE8#8 0x0A#8 0x01#8) (withAcc 1#16) = .next t :=
  ⟨⟨_, rfl⟩, ⟨_, rfl⟩, ⟨_, rfl⟩⟩

theorem witness_QueryFrame : (∃ t, exec .classifySoh (withAcc 1#16) = .next t) ∧
    (∃ t, exec .classifyStx (withAcc 1#16) = .next t) ∧ (∃ t, exec .classifyEot (withAcc 1#16) = .next t) ∧
    ∃ t, exec (.check 0b01#2 0xFF#8 0xFF#8 0x00#8 0x00#8 0x00#8 0x18#8) (withAcc 1#16) = .next t :=
  ⟨⟨_, rfl⟩, ⟨_, rfl⟩, ⟨_, rfl⟩, ⟨_, rfl⟩⟩

/-- spec/95 section 2.4: a `Reset` with op = 0b11 and a `BYTE`, with the checks read in the same step. -/
theorem witness_CheckInTheStepSeesOldAcc :
    (∃ t, step (presenting 0xE80A#16 [.inputs (someInput false 0b10#2 0x00#8)]) = .next t ∧ t.output.accept = true) ∧
    (∃ cw n held, step (presenting 0xE80A#16 [.inputs (someInput false 0b11#2 0x00#8)]) =
      .fault (.illegalCommand cw n held) ∧ held.output.accept = true) ∧
    ∃ t, step (presenting 0xE80A#16 [.inputs (someInput true 0b11#2 0x00#8)]) = .next t ∧
      (someInput true 0b11#2 0x00#8).rst = true :=
  ⟨⟨_, rfl, by decide⟩, ⟨_, _, _, rfl, by decide⟩, ⟨_, rfl, rfl⟩⟩

theorem witness_FullFrameIsJudged :
    (∃ frame : List Byte, frame.getD 0 0#8 = 0x01#8 ∧ frame.length = 128 + 5) ∧
    ∃ frame : List Byte, frame.getD 0 0#8 = 0x02#8 ∧ frame.length = 1024 + 5 :=
  ⟨⟨0x01#8 :: List.replicate 132 0x00#8, rfl, by rw [List.length_cons, List.length_replicate]⟩,
    ⟨0x02#8 :: List.replicate 1028 0x00#8, rfl, by rw [List.length_cons, List.length_replicate]⟩⟩

theorem witness_ControlFrameLeavesAcc : (0x04#8 : Byte) ≠ 0x01#8 ∧ (0x04#8 : Byte) ≠ 0x02#8 ∧
    (0x18#8 : Byte) ≠ 0x01#8 ∧ (0x18#8 : Byte) ≠ 0x02#8 ∧ (0x43#8 : Byte) ≠ 0x01#8 ∧ (0x43#8 : Byte) ≠ 0x02#8 := by
  decide

theorem witness_ShortAndLongFrames : (0b01#2 : TStat) ≠ 0b00#2 ∧ frameComplete [] = false ∧
    [0x01#8].getD 0 0#8 = 0x01#8 ∧ [0x02#8, 0xFF#8].getD 0 0#8 = 0x02#8 ∧
    frameComplete (0x01#8 :: List.replicate 131 0x00#8) = false ∧
    frameComplete (0x01#8 :: List.replicate 132 0x00#8) = true ∧ frameComplete [0x04#8] = true := by decide +kernel

theorem witness_BuiltFrameIsAccepted : (List.replicate 128 (0x00#8 : Byte)).length = 128 ∧
    (List.replicate 1024 (0x00#8 : Byte)).length = 1024 := ⟨List.length_replicate, List.length_replicate⟩

theorem witness_FrameExpansionRunsAlike : (Instr.validateFrame [0x02#8] 0x01#8 0b01#2).wellFormed = true ∧
    (Instr.validateFrame [0x43#8] 0x01#8 0b00#2).wellFormed = true ∧
    (Instr.validateFrame (0x01#8 :: List.replicate 132 0x00#8) 0x01#8 0b00#2).wellFormed = true := by decide +kernel

theorem witness_HostSequenceGivesTheVerdict :
    (0x01#8 : Byte) = 0x01#8 ∧ (List.replicate 128 (0x1A#8 : Byte)).length = 128 := ⟨rfl, List.length_replicate⟩

theorem witness_AbsorbedTrailerSpoilsTheCheck : Machine.crc16 [0x31#8] ([0x31#8] : List Byte).length ≠ 0x0000#16 := by
  decide +kernel

theorem witness_LaunchedRunsForgetAcc : launched [.reset, .byte 0x31#8] = true ∧ launched [.clr] = true ∧
    launched [.crc16 [], .bytes []] = true ∧ (∃ t, runInstrs [.crc16 [], .bytes []] (withAcc 0xFFFF#16) = .next t) ∧
    (∃ j ∈ [Instr.reset, .byte 0x31#8].tail, j ≠ .bytes []) ∧
    ∃ t, runInstrs [.reset, .byte 0x31#8] (withAcc 0xFFFF#16) = .next t :=
  ⟨rfl, rfl, rfl, ⟨_, rfl⟩, ⟨.byte 0x31#8, by decide, by decide⟩, ⟨_, rfl⟩⟩

theorem witness_RunAccIsTheChecksum : ∀ i ∈ [Instr.byte 0x31#8, .classifyEot, .validateFrame [0x04#8] 0x01#8 0b00#2],
    plainUse i = true := by decide

theorem witness_EveryLegalOperationCompletes :
    (Instr.check 0b11#2 0x00#8 0x00#8 0x00#8 0x00#8 0x00#8 0xFF#8).wellFormed = true ∧
    Instr.check 0b11#2 0x00#8 0x00#8 0x00#8 0x00#8 0x00#8 0xFF#8 ≠ .ill := by decide

theorem witness_OnlyReservedCommandsFault :
    (∃ r, step (presenting 0x20B5#16 [.command false 0x300#10]) = .fault r) ∧
    (∃ r, step (presenting 0x20B5#16 [.inputs (someInput false 0b11#2 0x00#8)]) = .fault r) ∧
    decode (.inputs (someInput false 0b11#2 0x00#8)) = .ill ∧ Instr.ill ∈ [Instr.clr, .ill] :=
  ⟨⟨_, rfl⟩, ⟨_, rfl⟩, rfl, by decide⟩

theorem witness_OnlyShortFramesAreRefused :
    exec (.validateFrame [0x01#8] 0x01#8 0b00#2) (withAcc 1#16) = .refused (.frameTooShort 1) := rfl

/-- A state whose ports and reading agree, with something to present. -/
theorem witness_PortsAgreementIsKept : PortsAgree (presenting 0x0000#16 [.header 0x01#8]) ∧
    ∃ t, step (presenting 0x0000#16 [.header 0x01#8]) = .next t :=
  ⟨⟨by decide, by decide, by decide, by decide, by decide, by decide, by decide, by decide, by decide, by decide,
    by decide, by decide⟩, ⟨_, rfl⟩⟩

/-- The state after the `CHECK` of spec/95 section 2.6, first row. -/
theorem witness_AgreeingPortsAreConsistent :
    ∃ s, PortsAgree s ∧ s.output.accept = true :=
  ⟨runCheck 0b00#2 0x01#8 0xFE#8 0x01#8 0xE8#8 0x0A#8 0x01#8 (withAcc 0xE80A#16),
    ⟨by decide, by decide, by decide, by decide, by decide, by decide, by decide, by decide, by decide, by decide,
      by decide, by decide⟩, by decide⟩

end Sys2Proof.Tests
end

/-! PROOFS. What presenting, dispatching and stepping keep, said once (spec/00_scope.md R4, R29, log 1, log 3). -/

namespace Sys2Proof.Machine

/-! ### Presenting -/

@[simp] theorem drive_queue (p : Presented) (s : State) : (drive p s).queue = s.queue := by
  cases p <;> rfl

/-- The levels a presentation leaves on the ports do not depend on what is still queued. -/
theorem drive_input_congr_queue (p : Presented) (s : State) (q : List Presented) :
    (drive p { s with queue := q }).input = (drive p s).input := by
  cases p <;> rfl

theorem step_of_queue_cons {s : State} {p : Presented} {rest : List Presented} (hq : s.queue = p :: rest) :
    step s = exec (decode p) (drive p { s with queue := rest }) := by
  simp only [step, hq]

/-! ### A frame's validation -/

@[simp] theorem validateData_queue (f : FrameFields) (h exp : Byte) (tstat : TStat) (s : State) :
    (validateData f h exp tstat s).queue = s.queue := by
  simp [validateData]

@[simp] theorem validateControl_queue (h exp : Byte) (tstat : TStat) (s : State) :
    (validateControl h exp tstat s).queue = s.queue := by
  simp [validateControl]

/-- R142: a validation that completes read a header and, for a data header, the frame's fields; only a frame with all
its bytes spends no draw of free bytes. -/
theorem execValidateFrame_next {frame : List Byte} {exp : Byte} {tstat : TStat} {s t : State}
    (hrun : execValidateFrame frame exp tstat s = .next t) :
    ∃ h, memRead1 frame tstat s.fresh 0 = .ok h ∧
      ((isData h = true ∧ ∃ f, dataFields frame tstat s.fresh (payLen h).toNat = .ok f ∧
          ((frameComplete frame = true ∧ t = validateData f h exp tstat (classify h s)) ∨
            (frameComplete frame = false ∧ t = spendFresh (validateData f h exp tstat (classify h s))))) ∨
        (isData h = false ∧ t = spendFresh (validateControl h exp tstat (classify h s)))) := by
  unfold execValidateFrame at hrun
  split at hrun
  · cases hrun
  next h hread =>
    refine ⟨h, hread, ?_⟩
    split at hrun
    next hdata =>
      split at hrun
      · cases hrun
      next f hfields =>
        refine .inl ⟨hdata, f, hfields, ?_⟩
        split at hrun
        next hall => cases hrun; exact .inl ⟨hall, rfl⟩
        next hmissing => cases hrun; exact .inr ⟨by simpa using hmissing, rfl⟩
    next hcontrol => cases hrun; exact .inr ⟨by simpa using hcontrol, rfl⟩

/-! ### Dispatch -/

/-- No operation presents anything: what is queued stays (R4, log 1). -/
theorem exec_keeps_queue {i : Instr} {s t : State} (h : exec i s = .next t) : t.queue = s.queue := by
  cases i with
  | ill => exact absurd h (raiseIllegalCommand_ne_next _ t)
  | crc16 buf => cases h; simp
  | bytes buf => cases h; simp
  | validateFrame frame exp tstat =>
    obtain ⟨_, _, ⟨_, f, _, ⟨_, rfl⟩ | ⟨_, rfl⟩⟩ | ⟨_, rfl⟩⟩ := execValidateFrame_next h <;> simp
  | _ => cases h; rfl

/-- R110: every outcome of a header byte is the classification of that byte. -/
theorem exec_decodeHeader (h : Byte) (s : State) : exec (decodeHeader h) s = .next (classify h s) := by
  by_cases hsoh : h = Config.headerSoh
  · subst hsoh; rfl
  by_cases hstx : h = Config.headerStx
  · subst hstx; rfl
  by_cases heot : h = Config.headerEot
  · subst heot; rfl
  by_cases hcan : h = Config.headerCan
  · subst hcan; rfl
  have hkind : kindOf h = .unknown := by simp [kindOf, hsoh, hstx, heot, hcan]
  simp only [decodeHeader, hkind]
  rfl

/-- R29, R94 to R97, R230: the command that stands on the ports takes the block's own step, and a reserved one faults;
either way the ports keep their levels. -/
theorem exec_decodeCommand (s : State) :
    exec (decodeCommand s.input.rst s.input.op s.input.din) s =
      if illOf s.input then raiseIllegalCommand s else .next (commitStep (nextAcc s.acc s.input) s) := by
  obtain ⟨acc, ⟨rst, op, din, _⟩, _⟩ := s
  cases rst with
  | true => rfl
  | false =>
    obtain rfl | rfl | rfl | rfl : op = 0b00#2 ∨ op = 0b01#2 ∨ op = 0b10#2 ∨ op = 0b11#2 := by
      revert op; decide
    all_goals rfl

theorem exec_decodeCommand_keeps_input {s t : State}
    (h : exec (decodeCommand s.input.rst s.input.op s.input.din) s = .next t) : t.input = s.input := by
  rw [exec_decodeCommand] at h
  split at h
  · exact absurd h (raiseIllegalCommand_ne_next s t)
  · cases h; rfl

/-- R60, R61, R64: the presentations that are values on the ports, which the pseudo-operations are not. -/
def DrivesPorts (p : Presented) : Prop :=
  (∃ rst cw, p = .command rst cw) ∨ (∃ i, p = .inputs i) ∨ (∃ h, p = .header h) ∨ (∃ v, p = .bundle v)

/-- An operation run from the ports that encode it leaves them at the levels driven (log 3). -/
theorem exec_decode_drive_input {p : Presented} {s t : State} (hp : DrivesPorts p)
    (h : exec (decode p) (drive p s) = .next t) : t.input = (drive p s).input := by
  obtain ⟨rst, cw, rfl⟩ | ⟨i, rfl⟩ | ⟨b, rfl⟩ | ⟨v, rfl⟩ := hp
  · exact exec_decodeCommand_keeps_input h
  · exact exec_decodeCommand_keeps_input h
  · cases (exec_decodeHeader b _).symm.trans h; rfl
  · cases h; rfl

/-- Settles O6: the step's equation, the ports each form of presentation drives, and what a completed step keeps of
the queue and of the levels driven. -/
theorem stepRunsDecodedOperation : Obligations.StepRunsDecodedOperation := by
  unfold Obligations.StepRunsDecodedOperation
  refine ⟨fun s p rest hq => step_of_queue_cons hq, fun _ _ _ => rfl, fun _ _ => rfl, fun _ _ => rfl, fun _ _ => rfl,
    fun _ _ _ _ _ => ⟨rfl, rfl, rfl⟩, fun s t p rest hq hstep => ?_⟩
  rw [step_of_queue_cons hq] at hstep
  refine ⟨by simpa using exec_keeps_queue hstep, fun hp => ?_⟩
  calc t.input
      = (drive p { s with queue := rest }).input := exec_decode_drive_input hp hstep
    _ = (drive p s).input := drive_input_congr_queue p s rest

end Sys2Proof.Machine

/-! PROOFS. The block's step as a function of ACC and the ports (spec/10_state.md R26, R29), and the agreement of the
ports with their last reading (R27, R74, R126, log 3, log 4). -/

namespace Sys2Proof.Safety

open Sys2Proof.Machine

/-! ### The reserved command on the ports -/

theorem illOf_iff {i : StepInput} : illOf i = true ↔ i.rst = false ∧ i.op = 0b11#2 := by
  simp [illOf]

theorem illOf_eq_false_iff {i : StepInput} : illOf i = false ↔ ¬(i.rst = false ∧ i.op = 0b11#2) := by
  rw [← illOf_iff, Bool.not_eq_true]

/-- R97: a reserved command holds ACC. -/
theorem nextAcc_of_illOf {i : StepInput} (hill : illOf i = true) (acc : Word) : nextAcc acc i = acc := by
  obtain ⟨hrst, hop⟩ := illOf_iff.mp hill
  simp [nextAcc, hrst, hop]

/-- R94 to R97, R230: ACC after a step, `NOP` told apart from the reserved command. -/
theorem nextAcc_eq (acc : Word) (i : StepInput) :
    nextAcc acc i =
      if i.rst = true then 0x0000#16 else if i.op = 0b00#2 then acc else if i.op = 0b01#2 then 0x0000#16
      else if i.op = 0b10#2 then crcByte acc i.din else acc := by
  by_cases hnop : i.op = 0b00#2
  · simp [nextAcc, hnop, Config.resetAcc]
  · simp [nextAcc, hnop, Config.resetAcc, Config.crcInit]

/-! ### A step -/

theorem step_of_queue_nil {s : State} (hq : s.queue = []) : step s = .refused .noStepPresented := by
  simp only [step, hq]

/-- R97, R200: the fault of a reserved command holds the state that the block's function gives (log 7). -/
theorem raiseIllegalCommand_of_illOf {s : State} (hill : illOf s.input = true) :
    raiseIllegalCommand s =
      .fault (.illegalCommand (commandWord s.input.op s.input.din) s.steps
        (commitStep (nextAcc s.acc s.input) s)) := by
  rw [raiseIllegalCommand, nextAcc_of_illOf hill]

/-- R29: a command that completes is not reserved, and takes the block's step. -/
theorem exec_decodeCommand_next {i : Instr} {s t : State} (h : exec i s = .next t)
    (hi : i = decodeCommand s.input.rst s.input.op s.input.din) :
    illOf s.input = false ∧ t = commitStep (nextAcc s.acc s.input) s := by
  rw [hi, exec_decodeCommand] at h
  split at h
  · exact absurd h (raiseIllegalCommand_ne_next s t)
  next hill => cases h; exact ⟨by simpa using hill, rfl⟩

/-! ### The rejection flags -/

/-- R120, R201: each bit of `err` is the cause it is the code of. -/
@[simp] theorem errBits_causeBit (acc : Word) (i : StepInput) (c : RejectionCause) :
    (errBits acc i).getLsbD (causeBit c) = causeHolds acc i c := by
  rw [errBits, BitVec.getLsbD_append, BitVec.getLsbD_append, BitVec.getLsbD_append, BitVec.getLsbD_append]
  cases c <;> simp [causeBit]

/-- R201: the five causes are all the bits of `err`. -/
theorem eq_errBits_iff {e : BitVec 5} {acc : Word} {i : StepInput} :
    e = errBits acc i ↔ ∀ c, e.getLsbD (causeBit c) = causeHolds acc i c := by
  constructor
  · rintro rfl c
    exact errBits_causeBit acc i c
  · intro h
    have hbit (c : RejectionCause) : e.getLsbD (causeBit c) = (errBits acc i).getLsbD (causeBit c) := by
      rw [h c, errBits_causeBit]
    apply BitVec.eq_of_getLsbD_eq
    intro k hk
    interval_cases k
    · exact hbit .uart
    · exact hbit .number
    · exact hbit .cmpl
    · exact hbit .crc
    · exact hbit .hdr

/-- R123: the two sequence bytes add up to 255 exactly when the second is the complement of the first. -/
theorem complementSum_eq_seqSum_iff (seq cmpl : Byte) : complementSum seq cmpl = Config.seqSum ↔ cmpl = ~~~seq := by
  rw [complementSum, Config.seqSum, ← BitVec.toNat_inj, ← BitVec.toNat_inj]
  simp only [BitVec.toNat_add, BitVec.zeroExtend_eq_setWidth, BitVec.toNat_setWidth, BitVec.toNat_not,
    BitVec.toNat_ofNat]
  omega

/-- R121 to R125: each cause as the condition on its operands. -/
theorem causeHolds_eq (acc : Word) (i : StepInput) :
    causeHolds acc i .uart = decide (i.tstat ≠ 0b00#2) ∧
    causeHolds acc i .number = decide (i.seq ≠ i.expSeq) ∧
    causeHolds acc i .cmpl = decide (i.cmpl ≠ ~~~i.seq) ∧
    causeHolds acc i .crc = decide (i.crcHi ++ i.crcLo ≠ acc) ∧
    causeHolds acc i .hdr = !(i.hdr == 0x01#8 || i.hdr == 0x02#8) := by
  refine ⟨?_, ?_, ?_, ?_, rfl⟩
  · simp [causeHolds, errUart, bne, beq_eq_decide]
  · simp [causeHolds, errNumber, bne, beq_eq_decide]
  · simp [causeHolds, errCmpl, bne, beq_eq_decide, complementSum_eq_seqSum_iff]
  · simp [causeHolds, errCrc, bne, beq_eq_decide, checksumReceived]

/-! ### The invariant of the ports and their reading -/

/-- The reading is current: the ports hold no reserved command, and the outputs were read as the block's functions of
these ports and of the ACC read with them (R26, R27). -/
def ReadingCurrent (s : State) : Prop :=
  illOf s.input = false ∧ s.output = outputs s.output.acc s.input

theorem output_eq_outputs_iff {o : StepOutput} {acc : Word} {i : StepInput} :
    o = outputs acc i ↔
      o.acc = acc ∧ o.ill = illOf i ∧ o.kind = kindCode (kindOf i.hdr) ∧ o.payLen = payLen i.hdr ∧
        o.remLen = remLen i.hdr ∧ o.frameLen = frameLen i.hdr ∧ o.err = errBits acc i ∧
        o.accept = (errBits acc i == 0b00000#5) := by
  cases o
  simp [outputs]

/-- R26, R27: the clauses of `PortsAgree` say, port by port, that the reading is current. -/
theorem portsAgree_iff {s : State} : PortsAgree s ↔ ReadingCurrent s := by
  obtain ⟨huart, hnumber, hcmpl, hcrc, hhdr⟩ := causeHolds_eq s.output.acc s.input
  constructor
  · intro h
    have hill : illOf s.input = false := illOf_eq_false_iff.mpr h.notReserved
    have herr : s.output.err = errBits s.output.acc s.input := eq_errBits_iff.mpr fun
      | .uart => h.errUart.trans huart.symm
      | .number => h.errNumber.trans hnumber.symm
      | .cmpl => h.errCmpl.trans hcmpl.symm
      | .crc => h.errCrc.trans hcrc.symm
      | .hdr => h.errHdr.trans hhdr.symm
    have haccept : s.output.accept = (errBits s.output.acc s.input == 0b00000#5) := by
      rw [← herr, Bool.eq_iff_iff, h.accept, beq_iff_eq]
    exact ⟨hill, output_eq_outputs_iff.mpr
      ⟨rfl, h.ill.trans hill.symm, h.kind, h.payLen, h.remLen, h.frameLen, herr, haccept⟩⟩
  · rintro ⟨hill, hout⟩
    obtain ⟨-, hreadIll, hkind, hpay, hrem, hframe, herr, haccept⟩ := output_eq_outputs_iff.mp hout
    have hbit := eq_errBits_iff.mp herr
    exact
      { notReserved := illOf_eq_false_iff.mp hill
        ill := hreadIll.trans hill
        kind := hkind
        payLen := hpay
        remLen := hrem
        frameLen := hframe
        errUart := (hbit .uart).trans huart
        errNumber := (hbit .number).trans hnumber
        errCmpl := (hbit .cmpl).trans hcmpl
        errCrc := (hbit .crc).trans hcrc
        errHdr := (hbit .hdr).trans hhdr
        accept := by rw [haccept, herr, beq_iff_eq] }

theorem commitStep_readingCurrent {s : State} (hill : illOf s.input = false) (acc : Word) :
    ReadingCurrent (commitStep acc s) :=
  ⟨hill, rfl⟩

theorem classify_readingCurrent {s : State} (hill : illOf s.input = false) (h : Byte) :
    ReadingCurrent (classify h s) :=
  ⟨hill, rfl⟩

theorem runCheck_readingCurrent {s : State} (hill : illOf s.input = false) (tstat : TStat)
    (seq cmpl expSeq crcHi crcLo hdr : Byte) :
    ReadingCurrent (runCheck tstat seq cmpl expSeq crcHi crcLo hdr s) :=
  ⟨hill, rfl⟩

theorem clearStep_readingCurrent (din : Byte) (s : State) : ReadingCurrent (clearStep din s) :=
  ⟨rfl, rfl⟩

theorem absorbStep_readingCurrent (b : Byte) (s : State) : ReadingCurrent (absorbStep b s) :=
  ⟨rfl, rfl⟩

/-- R141: the premise is for no byte, where nothing is read anew (log 12). -/
theorem absorbAll_readingCurrent {s : State} (hs : ReadingCurrent s) (bs : List Byte) :
    ReadingCurrent (absorbAll bs s) := by
  induction bs generalizing s with
  | nil => exact hs
  | cons b bs ih => exact ih (absorbStep_readingCurrent b s)

theorem validateData_readingCurrent (f : FrameFields) (h exp : Byte) (tstat : TStat) (s : State) :
    ReadingCurrent (validateData f h exp tstat s) := by
  have habsorbed := absorbAll_readingCurrent (clearStep_readingCurrent 0x00#8 s) f.payload
  exact runCheck_readingCurrent habsorbed.1 ..

theorem execValidateFrame_readingCurrent {frame : List Byte} {exp : Byte} {tstat : TStat} {s t : State}
    (hs : ReadingCurrent s) (hrun : execValidateFrame frame exp tstat s = .next t) : ReadingCurrent t := by
  obtain ⟨h, -, ⟨-, f, -, ⟨-, rfl⟩ | ⟨-, rfl⟩⟩ | ⟨-, rfl⟩⟩ := execValidateFrame_next hrun
  · exact validateData_readingCurrent f h exp tstat _
  · exact validateData_readingCurrent f h exp tstat _
  · exact runCheck_readingCurrent (classify_readingCurrent hs.1 h).1 ..

/-- An engine step that completes reads the outputs with the command that stands on the ports. -/
theorem exec_decodeCommand_readingCurrent {i : Instr} {s t : State} (h : exec i s = .next t)
    (hi : i = decodeCommand s.input.rst s.input.op s.input.din) : ReadingCurrent t := by
  obtain ⟨hill, rfl⟩ := exec_decodeCommand_next h hi
  exact commitStep_readingCurrent hill _

/-- By the form of what is presented: an engine step reads the ports as it drives them; a query drives the validator's
ports only and reads them; a pseudo-operation ends in such a reading, or reads nothing and leaves all as it was. -/
theorem step_readingCurrent {s t : State} (hs : ReadingCurrent s) (hstep : step s = .next t) : ReadingCurrent t := by
  cases hq : s.queue with
  | nil => rw [step_of_queue_nil hq] at hstep; cases hstep
  | cons p rest =>
    rw [step_of_queue_cons hq] at hstep
    have hrest : ReadingCurrent { s with queue := rest } := hs
    cases p with
    | command rst cw => exact exec_decodeCommand_readingCurrent hstep rfl
    | inputs i => exact exec_decodeCommand_readingCurrent hstep rfl
    | header h =>
      cases (exec_decodeHeader h _).symm.trans hstep
      exact classify_readingCurrent hs.1 h
    | bundle v => cases hstep; exact runCheck_readingCurrent hs.1 ..
    | crc16 buf => cases hstep; exact absorbAll_readingCurrent (clearStep_readingCurrent 0x00#8 _) buf
    | bytes buf => cases hstep; exact absorbAll_readingCurrent hrest buf
    | validateFrame frame exp tstat => exact execValidateFrame_readingCurrent hrest hstep

/-- Settles O55: the invariant says that the reading is current, and every step keeps that. -/
theorem portsAgreementIsKept : Obligations.PortsAgreementIsKept := by
  unfold Obligations.PortsAgreementIsKept
  intro s t hs hstep
  exact portsAgree_iff.mpr (step_readingCurrent (portsAgree_iff.mp hs) hstep)

/-! ### The block's function, the engine's frame and reset -/

/-- Settles O9: with all ports presented the step is the engine's, of the command on the ports; the two cases are its
two outcomes. -/
theorem stepIsTheBlockFunction : Obligations.StepIsTheBlockFunction := by
  unfold Obligations.StepIsTheBlockFunction
  intro s i rest hq
  have hstep := (step_of_queue_cons hq).trans (exec_decodeCommand { s with input := i, queue := rest })
  refine ⟨fun hlegal => ?_, fun hreserved => ?_, ?_⟩
  · rw [hstep, if_neg (mt illOf_iff.mp hlegal)]
    rfl
  · have hill : illOf i = true := illOf_iff.mpr hreserved
    rw [hstep, if_pos hill, raiseIllegalCommand_of_illOf hill]
    rfl
  · rw [blockStep, nextAcc_eq]

/-- Settles O18: each command drives the engine's three ports and takes one step; presented as a word, the levels driven
are the word's. -/
theorem engineCommandFrame : Obligations.EngineCommandFrame := by
  unfold Obligations.EngineCommandFrame
  refine ⟨fun i s t hi hrun => ?_, fun s t rst cw rest hq hstep => ?_⟩
  · obtain rfl | rfl | rfl | ⟨b, rfl⟩ := hi
    all_goals
      cases hrun
      simp
  · rw [step_of_queue_cons hq] at hstep
    obtain ⟨-, rfl⟩ := exec_decodeCommand_next hstep rfl
    exact ⟨rfl, rfl, rfl, rfl⟩

/-- Settles O50. -/
theorem resetValues : Obligations.ResetValues := by
  unfold Obligations.ResetValues
  exact ⟨rfl, rfl⟩

end Sys2Proof.Safety

/-! PROOFS. The command word and the operand bundle as packings of their fields, and what encodings decode to
(spec/30_encoding.md R60 to R66, R72). -/

namespace Sys2Proof

/-! ### The command word -/

@[simp] theorem commandOp_commandWord (op : Op) (din : Byte) : commandOp (commandWord op din) = op :=
  BitVec.extractLsb'_append_eq_left

@[simp] theorem commandDin_commandWord (op : Op) (din : Byte) : commandDin (commandWord op din) = din :=
  BitVec.extractLsb'_append_eq_right

@[simp] theorem commandWord_fields (cw : CommandWord) : commandWord (commandOp cw) (commandDin cw) = cw :=
  (BitVec.extractLsb'_append_extractLsb'_eq_extractLsb' rfl).trans BitVec.extractLsb'_eq_self

theorem commandWord_toNat (op : Op) (din : Byte) : (commandWord op din).toNat = 0x100 * op.toNat + din.toNat := by
  rw [commandWord, BitVec.toNat_append, ← Nat.shiftLeft_add_eq_or_of_lt din.isLt, Nat.shiftLeft_eq, Nat.mul_comm]

/-- R65: the mask 0x300 keeps `op` and clears `din`. -/
theorem and_opMask (cw : CommandWord) : cw &&& 0x300#10 = commandWord (commandOp cw) 0#8 := by
  calc cw &&& 0x300#10
      = commandWord (commandOp cw) (commandDin cw) &&& commandWord (BitVec.allOnes 2) 0#8 := by
        rw [commandWord_fields]; rfl
    _ = commandWord (commandOp cw &&& BitVec.allOnes 2) (commandDin cw &&& 0#8) := BitVec.and_append
    _ = commandWord (commandOp cw) 0#8 := by rw [BitVec.and_allOnes, BitVec.and_zero]

/-- R65: a command word has a row's match under the mask exactly when it has the row's `op`. -/
theorem and_opMask_eq_iff {cw : CommandWord} {op : Op} :
    cw &&& 0x300#10 = commandWord op 0#8 ↔ commandOp cw = op := by
  rw [and_opMask]
  exact BitVec.append_left_inj 0#8

theorem decode_command_of_op {cw : CommandWord} {op : Op} (hop : commandOp cw = op) :
    decode (.command false cw) = decodeCommand false op (commandDin cw) := by
  rw [decode, hop]

/-- Settles O3: the mask compares `op`, and a word is its `op` beside its `din`. -/
theorem commandWordsByMatchAndMask : Obligations.CommandWordsByMatchAndMask := by
  unfold Obligations.CommandWordsByMatchAndMask
  intro cw
  refine ⟨fun h => ?_, fun h => ?_, fun h => ?_, fun h => ?_⟩
  · have hop : commandOp cw = 0b00#2 := and_opMask_eq_iff.mp h
    exact ⟨decode_command_of_op hop, rfl⟩
  · have hop : commandOp cw = 0b01#2 := and_opMask_eq_iff.mp h
    exact ⟨decode_command_of_op hop, rfl⟩
  · have hop : commandOp cw = 0b10#2 := and_opMask_eq_iff.mp h
    have hcw : commandWord 0b10#2 (commandDin cw) = cw := by rw [← hop, commandWord_fields]
    refine ⟨commandDin cw, decode_command_of_op hop, by rw [encode, hcw], ?_⟩
    calc cw.toNat
        = (commandWord 0b10#2 (commandDin cw)).toNat := by rw [hcw]
      _ = 0x200 + (commandDin cw).toNat := commandWord_toNat _ _
  · have hop : commandOp cw = 0b11#2 := and_opMask_eq_iff.mp h
    exact ⟨decode_command_of_op hop, rfl⟩

/-! ### The operand bundle of `CHECK` -/

/-- A field above the lowest byte of a packing is that field of what stands above the byte. -/
theorem extractLsb'_append_byte {n : Nat} (v : BitVec n) (b : Byte) (start len : Nat) :
    (v ++ b).extractLsb' (start + 8) len = v.extractLsb' start len :=
  BitVec.extractLsb'_append_eq_of_le (Nat.le_add_left 8 start)

/-- A field beside the byte below it is one field, longer by that byte. -/
theorem extractLsb'_append_byte_below {n : Nat} (v : BitVec n) (start len : Nat) :
    v.extractLsb' (start + 8) len ++ v.extractLsb' start 8 = v.extractLsb' start (len + 8) :=
  BitVec.extractLsb'_append_extractLsb'_eq_extractLsb' rfl

/-- R64: each operand is read from the place where the packing puts it. -/
@[simp] theorem decodeBundle_bundleWord (tstat : TStat) (seq cmpl expSeq crcHi crcLo hdr : Byte) :
    decodeBundle (bundleWord tstat seq cmpl expSeq crcHi crcLo hdr) =
      .check tstat seq cmpl expSeq crcHi crcLo hdr := by
  simp only [decodeBundle, Instr.check.injEq, bundleTstat, bundleSeq, bundleCmpl, bundleExpSeq, bundleCrcHi,
    bundleCrcLo, bundleHdr, bundleWord]
  refine ⟨?tstat, ?_, ?_, ?_, ?_, ?_, ?_⟩
  all_goals repeat rw [extractLsb'_append_byte]
  case tstat => exact BitVec.extractLsb'_eq_self
  all_goals exact BitVec.extractLsb'_append_eq_right

/-- R64: the fields are all the bits of the bundle. -/
theorem bundleWord_fields (v : Bundle) :
    bundleWord (bundleTstat v) (bundleSeq v) (bundleCmpl v) (bundleExpSeq v) (bundleCrcHi v) (bundleCrcLo v)
      (bundleHdr v) = v := by
  simp only [bundleTstat, bundleSeq, bundleCmpl, bundleExpSeq, bundleCrcHi, bundleCrcLo, bundleHdr, bundleWord]
  repeat rw [extractLsb'_append_byte_below]
  exact BitVec.extractLsb'_eq_self

/-- Settles O5: the packing and the fields are inverse to each other. -/
theorem bundleFieldsDecode : Obligations.BundleFieldsDecode := by
  unfold Obligations.BundleFieldsDecode
  exact ⟨decodeBundle_bundleWord, fun v => congrArg Presented.bundle (bundleWord_fields v)⟩

/-! ### Decoding what the encoder gives -/

/-- R110, R116: a header byte is one of the four known, of its kind, or it is none of them. -/
theorem kindOf_cases (h : Byte) :
    (h = 0x01#8 ∧ Machine.kindOf h = .smallData) ∨ (h = 0x02#8 ∧ Machine.kindOf h = .largeData) ∨
      (h = 0x04#8 ∧ Machine.kindOf h = .endOfTransfer) ∨ (h = 0x18#8 ∧ Machine.kindOf h = .cancel) ∨
      ((Instr.classifyUnknown h).wellFormed = true ∧ Machine.kindOf h = .unknown) := by
  by_cases hsoh : h = 0x01#8
  · exact .inl ⟨hsoh, hsoh ▸ rfl⟩
  by_cases hstx : h = 0x02#8
  · exact .inr (.inl ⟨hstx, hstx ▸ rfl⟩)
  by_cases heot : h = 0x04#8
  · exact .inr (.inr (.inl ⟨heot, heot ▸ rfl⟩))
  by_cases hcan : h = 0x18#8
  · exact .inr (.inr (.inr (.inl ⟨hcan, hcan ▸ rfl⟩)))
  refine .inr (.inr (.inr (.inr ⟨?_, ?_⟩)))
  · simp [Instr.wellFormed, hsoh, hstx, heot, hcan]
  · simp [Machine.kindOf, Config.headerSoh, Config.headerStx, Config.headerEot, Config.headerCan, hsoh, hstx, heot,
      hcan]

theorem encode_decodeHeader (h : Byte) : encode (decodeHeader h) = .header h := by
  obtain ⟨rfl, -⟩ | ⟨rfl, -⟩ | ⟨rfl, -⟩ | ⟨rfl, -⟩ | ⟨-, hkind⟩ := kindOf_cases h
  · rfl
  · rfl
  · rfl
  · rfl
  · rw [decodeHeader, hkind, encode]

/-- R115: the header of a well-formed Unknown outcome is none of the four, so it decodes to that outcome. -/
theorem decodeHeader_of_unknown {h : Byte} (hw : (Instr.classifyUnknown h).wellFormed = true) :
    decodeHeader h = .classifyUnknown h := by
  obtain ⟨rfl, -⟩ | ⟨rfl, -⟩ | ⟨rfl, -⟩ | ⟨rfl, -⟩ | ⟨-, hkind⟩ := kindOf_cases h
  · cases hw
  · cases hw
  · cases hw
  · cases hw
  · rw [decodeHeader, hkind]

/-- Settles O2: the operations with an operand by the packing of their format; every other encoding is a fixed word or,
of a pseudo-operation, the operation itself. -/
theorem decodeEncodeRoundTrip : Obligations.DecodeEncodeRoundTrip := by
  unfold Obligations.DecodeEncodeRoundTrip
  intro i hw
  cases i with
  | byte b =>
    calc decode (encode (.byte b))
        = decodeCommand false 0b10#2 (commandDin (commandWord 0b10#2 b)) :=
          decode_command_of_op (commandOp_commandWord _ _)
      _ = .byte b := by rw [commandDin_commandWord]; rfl
  | classifyUnknown h => exact decodeHeader_of_unknown hw
  | check tstat seq cmpl expSeq crcHi crcLo hdr => exact decodeBundle_bundleWord ..
  | _ => rfl

/-- Settles O1: each word is written out, and decodes by evaluation. -/
theorem sampleWordsDecode : Obligations.SampleWordsDecode := by
  unfold Obligations.SampleWordsDecode
  decide

end Sys2Proof

/-! PROOFS. What the outputs depend on, what the queries keep, and what agreeing ports say (spec/10_state.md R26, R27,
spec/30_encoding.md R72, R74, spec/41_frame_validator.md R126, R128). -/

namespace Sys2Proof.Safety

open Sys2Proof.Machine

/-! ### The ignored bits of a command word -/

/-- The ports that a command word leaves (R60). -/
def commandInput (rst : Bool) (cw : CommandWord) (i : StepInput) : StepInput :=
  { i with rst := rst, op := commandOp cw, din := commandDin cw }

/-- R29, R60: presenting a command word takes the block's step on the ports it leaves, or faults. -/
theorem step_command (rst : Bool) (cw : CommandWord) (rest : List Presented) (s : State) :
    step { s with queue := .command rst cw :: rest } =
      if illOf (commandInput rst cw s.input) then
        raiseIllegalCommand { s with input := commandInput rst cw s.input, queue := rest }
      else .next (commitStep (nextAcc s.acc (commandInput rst cw s.input))
        { s with input := commandInput rst cw s.input, queue := rest }) := by
  rw [step_of_queue_cons rfl]
  exact exec_decodeCommand { s with input := commandInput rst cw s.input, queue := rest }

/-- R26: of the engine's ports the outputs read nothing but whether they hold a reserved command. -/
theorem outputs_commandInput_congr {rst : Bool} {cw cw' : CommandWord} {i : StepInput}
    (hill : illOf (commandInput rst cw' i) = illOf (commandInput rst cw i)) (acc : Word) :
    outputs acc (commandInput rst cw' i) = outputs acc (commandInput rst cw i) :=
  congrArg (fun ill => { outputs acc (commandInput rst cw i) with ill := ill }) hill

/-- Two words that differ in bits their command ignores: under `Reset` all of them, else those of `din` where the
command is no `BYTE` (R72, R230). -/
def DifferInIgnoredBits (rst : Bool) (cw cw' : CommandWord) : Prop :=
  rst = true ∨ (commandOp cw = commandOp cw' ∧ commandOp cw ≠ 0b10#2)

section
variable {rst : Bool} {cw cw' : CommandWord} (h : DifferInIgnoredBits rst cw cw')
include h

theorem illOf_of_ignoredBits (i : StepInput) : illOf (commandInput rst cw' i) = illOf (commandInput rst cw i) := by
  obtain rfl | ⟨hop, -⟩ := h
  · rfl
  · simp [illOf, commandInput, hop]

theorem nextAcc_of_ignoredBits (acc : Word) (i : StepInput) :
    nextAcc acc (commandInput rst cw' i) = nextAcc acc (commandInput rst cw i) := by
  obtain rfl | ⟨hop, hbyte⟩ := h
  · simp [nextAcc, commandInput]
  · have hbyte' : commandOp cw' ≠ 0b10#2 := hop ▸ hbyte
    simp [nextAcc, commandInput, hop, hbyte']

end

/-- Settles O11: the ignored bits change neither whether the command is reserved, nor the new ACC; the outputs see no
more of the command than the first. -/
theorem ignoredBitsHaveNoEffect : Obligations.IgnoredBitsHaveNoEffect := by
  unfold Obligations.IgnoredBitsHaveNoEffect
  intro s t rst cw cw' rest h hstep
  have hill := illOf_of_ignoredBits h s.input
  rw [step_command] at hstep ⊢
  split at hstep
  · exact absurd hstep (raiseIllegalCommand_ne_next _ t)
  next hlegal =>
    cases hstep
    rw [if_neg (hill ▸ hlegal)]
    exact ⟨_, rfl, nextAcc_of_ignoredBits h s.acc s.input, outputs_commandInput_congr hill s.acc⟩

/-! ### The queries -/

/-- R76: the operations that are queries, `CLASSIFY` in its five outcomes and `CHECK`. -/
def IsQuery (i : Instr) : Prop :=
  i = .classifySoh ∨ i = .classifyStx ∨ i = .classifyEot ∨ i = .classifyCan ∨ (∃ h, i = .classifyUnknown h) ∨
    ∃ a b c d e f h, i = .check a b c d e f h

/-- R110, R120: what a query can do, classify a header or check a `CHECK`'s operands. -/
theorem exec_query_next {i : Instr} {s t : State} (hi : IsQuery i) (hrun : exec i s = .next t) :
    (∃ h, t = classify h s) ∨
      ∃ tstat seq cmpl expSeq crcHi crcLo hdr, i = .check tstat seq cmpl expSeq crcHi crcLo hdr ∧
        t = runCheck tstat seq cmpl expSeq crcHi crcLo hdr s := by
  obtain rfl | rfl | rfl | rfl | ⟨h, rfl⟩ | ⟨tstat, seq, cmpl, expSeq, crcHi, crcLo, hdr, rfl⟩ := hi
  case inr.inr.inr.inr.inr =>
    exact .inr ⟨tstat, seq, cmpl, expSeq, crcHi, crcLo, hdr, rfl, by cases hrun; rfl⟩
  all_goals exact .inl ⟨_, by cases hrun; rfl⟩

/-- Settles O36: a classification drives the header and reads, a check drives its own operands and reads. -/
theorem queryFrame : Obligations.QueryFrame := by
  unfold Obligations.QueryFrame
  intro i s t hi hrun
  obtain ⟨h, rfl⟩ | ⟨tstat, seq, cmpl, expSeq, crcHi, crcLo, hdr, rfl, rfl⟩ := exec_query_next hi hrun
  · simp
  · simp

/-! ### Agreeing ports -/

theorem kindCode_toNat_le (k : Kind) : (kindCode k).toNat ≤ 4 := by
  cases k <;> decide

/-- R119: a frame is its header and the bytes that follow it. -/
theorem frameLen_eq_remLen_add_one (h : Byte) : frameLen h = remLen h + 1#11 := by
  unfold frameLen remLen
  cases kindOf h <;> rfl

/-- R66: the code read for a data header. -/
theorem kindCode_of_data_header {h : Byte} (hdata : h = 0x01#8 ∨ h = 0x02#8) :
    kindCode (kindOf h) = 1#3 ∨ kindCode (kindOf h) = 2#3 := by
  obtain rfl | rfl := hdata
  · exact .inl rfl
  · exact .inr rfl

/-- Settles O57: `kind` and the lengths are functions of the header; an accepted reading has no error bit, and each bit
is the negation of its condition. -/
theorem agreeingPortsAreConsistent : Obligations.AgreeingPortsAreConsistent := by
  unfold Obligations.AgreeingPortsAreConsistent
  intro s hs
  refine ⟨hs.kind ▸ kindCode_toNat_le _, ?_, fun haccept => ?_⟩
  · rw [hs.frameLen, hs.remLen, frameLen_eq_remLen_add_one]
  · have herr : s.output.err = 0b00000#5 := hs.accept.mp haccept
    have hdata : s.input.hdr = 0x01#8 ∨ s.input.hdr = 0x02#8 := by
      simpa [herr, or_iff_not_imp_left] using hs.errHdr
    refine ⟨hs.kind ▸ kindCode_of_data_header hdata, ?_, ?_, ?_, ?_⟩
    · simpa [herr] using hs.errUart
    · simpa [herr] using hs.errNumber
    · simpa [herr] using hs.errCmpl
    · simpa [herr] using hs.errCrc

end Sys2Proof.Safety

/-! PROOFS. Presenting values one by one, and the expansion of `VALIDATE_FRAME` (spec/30_encoding.md R77,
spec/42_composite_ops.md R142, R146, log 12). -/

namespace Sys2Proof.Safety

open Sys2Proof.Machine

/-! ### Presenting values one by one -/

/-- Presenting the values of `q`, in order, takes the machine from `s` to `t`, whatever is queued behind them. -/
def PresentingTakes (q : List Presented) (s t : State) : Prop :=
  ∀ (rest : List Presented) (k : Nat),
    runPresented (q.length + k) { s with queue := q ++ rest } = runPresented k { t with queue := rest }

theorem presentingTakes_nil (s : State) : PresentingTakes [] s s := fun rest k => by
  rw [List.length_nil, Nat.zero_add, List.nil_append]

theorem PresentingTakes.append {q q' : List Presented} {s t u : State} (h : PresentingTakes q s t)
    (h' : PresentingTakes q' t u) : PresentingTakes (q ++ q') s u := fun rest k => by
  rw [List.length_append, Nat.add_assoc, List.append_assoc, h, h']

theorem presentingTakes_of_step {p : Presented} {s t : State}
    (h : ∀ rest, step { s with queue := p :: rest } = .next { t with queue := rest }) : PresentingTakes [p] s t :=
  fun rest k => by
    rw [List.length_singleton, Nat.add_comm]
    exact runPresented_succ (h rest) k

theorem PresentingTakes.cons {p : Presented} {q : List Presented} {s t u : State} (h : PresentingTakes [p] s t)
    (h' : PresentingTakes q t u) : PresentingTakes (p :: q) s u :=
  h.append h'

/-- A run of exactly the values presented ends in the state they take the machine to. -/
theorem PresentingTakes.runPresented_eq {q rest : List Presented} {s t : State} (h : PresentingTakes q s t) :
    runPresented q.length { s with queue := q ++ rest } = .next { t with queue := rest } :=
  h rest 0

/-- R110: a presented header byte is classified. -/
theorem presentingTakes_header (h : Byte) (s : State) :
    PresentingTakes [encode (decodeHeader h)] s (classify h s) := by
  rw [encode_decodeHeader]
  refine presentingTakes_of_step fun rest => ?_
  rw [step_of_queue_cons rfl]
  exact exec_decodeHeader h _

/-- R95: the canonical word of `CLR` has `din` at 0. -/
theorem presentingTakes_clr (s : State) : PresentingTakes [encode .clr] s (clearStep 0x00#8 s) :=
  presentingTakes_of_step fun _ => rfl

theorem presentingTakes_byte (b : Byte) (s : State) : PresentingTakes [encode (.byte b)] s (absorbStep b s) :=
  presentingTakes_of_step fun rest => by
    rw [step_of_queue_cons rfl, decodeEncodeRoundTrip (.byte b) rfl]
    simp only [encode, drive, commandOp_commandWord, commandDin_commandWord]
    rfl

theorem presentingTakes_bytes (bs : List Byte) (s : State) :
    PresentingTakes (bs.map fun b => encode (.byte b)) s (absorbAll bs s) := by
  induction bs generalizing s with
  | nil => exact presentingTakes_nil s
  | cons b bs ih => exact (presentingTakes_byte b s).cons (ih _)

theorem drive_bundleWord (tstat : TStat) (seq cmpl expSeq crcHi crcLo hdr : Byte) (s : State) :
    drive (.bundle (bundleWord tstat seq cmpl expSeq crcHi crcLo hdr)) s =
      driveCheck tstat seq cmpl expSeq crcHi crcLo hdr s := by
  have hfields := decodeBundle_bundleWord tstat seq cmpl expSeq crcHi crcLo hdr
  simp only [decodeBundle, Instr.check.injEq] at hfields
  simp only [drive, hfields]

/-- R120: a presented bundle is checked. -/
theorem presentingTakes_check {tstat : TStat} {seq cmpl expSeq crcHi crcLo hdr : Byte} (s : State) :
    PresentingTakes [encode (.check tstat seq cmpl expSeq crcHi crcLo hdr)] s
      (runCheck tstat seq cmpl expSeq crcHi crcLo hdr s) :=
  presentingTakes_of_step fun rest => by
    rw [step_of_queue_cons rfl, decodeEncodeRoundTrip (.check ..) rfl, encode, drive_bundleWord]
    rfl

/-! ### The frame that a validation supplies -/

/-- The fields of a data frame with `n` payload bytes, a free byte wherever the frame has none (R146). -/
def suppliedFields (frame : List Byte) (fresh n : Nat) : FrameFields where
  seq := suppliedByte frame fresh 1
  cmpl := suppliedByte frame fresh 2
  payload := (List.range' 3 n).map (suppliedByte frame fresh)
  crc := checksumReceived (suppliedByte frame fresh (n + 3)) (suppliedByte frame fresh (n + 4))

/-- R142: the state after the queries and steps of a validation, from the bytes supplied; the counter of the free bytes
is not yet spent. -/
def validateSupplied (frame : List Byte) (exp : Byte) (tstat : TStat) (s : State) : State :=
  let h := suppliedByte frame s.fresh 0
  if isData h then
    validateData (suppliedFields frame s.fresh (payBytes (kindOf h))) h exp tstat (classify h s)
  else validateControl h exp tstat (classify h s)

@[simp] theorem validateSupplied_queue (frame : List Byte) (exp : Byte) (tstat : TStat) (s : State) :
    (validateSupplied frame exp tstat s).queue = s.queue := by
  simp only [validateSupplied]
  split <;> simp

@[simp] theorem checksumReceived_hi (hi lo : Byte) : (checksumReceived hi lo).extractLsb' 8 8 = hi :=
  BitVec.extractLsb'_append_eq_left

@[simp] theorem checksumReceived_lo (hi lo : Byte) : (checksumReceived hi lo).extractLsb' 0 8 = lo :=
  BitVec.extractLsb'_append_eq_right

/-- R77: the payload's `BYTE`s of an expansion are those of the fields supplied. -/
theorem map_byte_suppliedPayload (frame : List Byte) (fresh n : Nat) :
    (suppliedFields frame fresh n).payload.map (fun b => encode (.byte b)) =
      (List.range n).map fun k => encode (.byte (suppliedByte frame fresh (Config.preLen + k))) := by
  simp only [suppliedFields, List.range'_eq_map_range, List.map_map, Function.comp_def, Config.preLen]

/-- Presenting the expansion of a frame, value by value, is the validation of the bytes supplied. -/
theorem presentingTakes_expandFrame (frame : List Byte) (exp : Byte) (tstat : TStat) (s : State) :
    PresentingTakes (expandFrame frame exp tstat s.fresh) s (validateSupplied frame exp tstat s) := by
  simp only [expandFrame, validateSupplied]
  split
  next hdata =>
    rw [← map_byte_suppliedPayload]
    refine (presentingTakes_header _ _).cons ((presentingTakes_clr _).cons ((presentingTakes_bytes _ _).append ?_))
    simp only [validateData, suppliedFields, checksumReceived_hi, checksumReceived_lo]
    exact presentingTakes_check _
  next => exact (presentingTakes_header _ _).cons (presentingTakes_check _)

/-! ### The bytes that a well-formed validation reads -/

theorem payLen_toNat (h : Byte) : (payLen h).toNat = payBytes (kindOf h) := by
  unfold payLen
  cases kindOf h <;> rfl

theorem isData_iff {h : Byte} : isData h = true ↔ h = 0x01#8 ∨ h = 0x02#8 := by
  simp [isData, Config.headerSoh, Config.headerStx]

/-- R119: the frame of a data header is its payload, three bytes before it and two behind. -/
theorem frameBytes_of_isData {h : Byte} (hdata : isData h = true) :
    frameBytes (kindOf h) = payBytes (kindOf h) + 5 := by
  obtain rfl | rfl := isData_iff.mp hdata
  · rfl
  · rfl

theorem frameBytes_pos (k : Kind) : 0 < frameBytes k := by
  cases k <;> decide

theorem suppliedByte_of_lt {frame : List Byte} {off : Nat} (h : off < frame.length) (fresh : Nat) :
    suppliedByte frame fresh off = frame[off] := by
  simp [suppliedByte, h]

/-- R146: a well-formed validation reads every byte that the header asks for, as it is supplied. -/
theorem frameByte_of_wellFormed {frame : List Byte} {exp : Byte} {tstat : TStat}
    (hw : (Instr.validateFrame frame exp tstat).wellFormed = true) {fresh off : Nat}
    (hoff : off < frameBytes (kindOf (suppliedByte frame fresh 0))) :
    frameByte frame tstat fresh off = .ok (suppliedByte frame fresh off) := by
  by_cases hstatus : tstat = 0b00#2
  · have hcomplete : frameComplete frame = true := by simpa [Instr.wellFormed, hstatus] using hw
    have hlt : off < frame.length := by
      cases frame with
      | nil => cases hcomplete
      | cons h more => exact Nat.lt_of_lt_of_le hoff (of_decide_eq_true hcomplete)
    rw [frameByte_of_lt hlt, suppliedByte_of_lt hlt]
  · exact frameByte_of_status hstatus frame fresh off

theorem memRead1_of_wellFormed {frame : List Byte} {exp : Byte} {tstat : TStat}
    (hw : (Instr.validateFrame frame exp tstat).wellFormed = true) {fresh off : Nat}
    (hoff : off < frameBytes (kindOf (suppliedByte frame fresh 0)))
    (hdata : off = 0 ∨ isData (suppliedByte frame fresh 0) = true) :
    memRead1 frame tstat fresh off = .ok (suppliedByte frame fresh off) := by
  rw [memRead1, frameByte_of_wellFormed hw (frameBytes_pos _)]
  obtain rfl | hdata := hdata
  · rfl
  · simp only [hdata, if_true, frameByte_of_wellFormed hw hoff]
    split_ifs with hzero
    · rw [hzero]
    · rfl

/-- R142, R146: a well-formed validation completes as the validation of the bytes supplied, but for the counter. -/
theorem execValidateFrame_of_wellFormed {frame : List Byte} {exp : Byte} {tstat : TStat}
    (hw : (Instr.validateFrame frame exp tstat).wellFormed = true) (s : State) :
    ∃ fresh, execValidateFrame frame exp tstat s =
      .next { validateSupplied frame exp tstat s with fresh := fresh } := by
  have hheader := memRead1_of_wellFormed hw (fresh := s.fresh) (frameBytes_pos _) (.inl rfl)
  unfold execValidateFrame validateSupplied
  rw [hheader]
  by_cases hdata : isData (suppliedByte frame s.fresh 0) = true
  · have hfields : dataFields frame tstat s.fresh (payBytes (kindOf (suppliedByte frame s.fresh 0))) =
        .ok (suppliedFields frame s.fresh (payBytes (kindOf (suppliedByte frame s.fresh 0)))) :=
      dataFields_eq fun k hk => memRead1_of_wellFormed hw (by rwa [frameBytes_of_isData hdata]) (.inr hdata)
    simp only [hdata, if_true, payLen_toNat, hfields]
    split
    · exact ⟨_, rfl⟩
    · exact ⟨_, rfl⟩
  · simp only [hdata]
    exact ⟨_, rfl⟩

/-- Settles O44: both are the validation of the bytes supplied, which the pseudo-operation ends by spending the free
bytes. -/
theorem frameExpansionRunsAlike : Obligations.FrameExpansionRunsAlike := by
  unfold Obligations.FrameExpansionRunsAlike
  intro frame e tstat s rest hw
  obtain ⟨fresh, hexec⟩ := execValidateFrame_of_wellFormed hw { s with queue := rest }
  have hrun := (presentingTakes_expandFrame frame e tstat { s with queue := rest }).runPresented_eq (rest := rest)
  exact ⟨_, _, hrun, hexec, by simp⟩

end Sys2Proof.Safety

/-! PROOFS. The checksum functions as an algebra of words: the round in bits, its linearity and injectivity, the byte
as eight rounds, the fold, and the residue (spec/40_crc_engine.md R90 to R93, R99 to R101). -/

namespace Sys2Proof.Machine

/-! ### The round -/

theorem crcRound_of_top {a : Word} (htop : a.getLsbD 15 = true) : crcRound a = (a <<< 1) ^^^ Config.crcPoly :=
  if_pos htop

theorem crcRound_of_not_top {a : Word} (htop : a.getLsbD 15 = false) : crcRound a = a <<< 1 :=
  if_neg (Bool.eq_false_iff.mp htop)

/-- R8: the bits of the polynomial. -/
theorem crcPoly_getLsbD {i : Nat} (hi : i < 16) : Config.crcPoly.getLsbD i = decide (i = 0 ∨ i = 5 ∨ i = 12) := by
  revert i
  decide

/-- R90 in bits: a shift by one, the bit shifted out coming in again wherever the polynomial has a bit. -/
theorem crcRound_getLsbD (a : Word) {i : Nat} (hi : i < 16) :
    (crcRound a).getLsbD i =
      if i = 0 then a.getLsbD 15
      else if i = 5 ∨ i = 12 then (a.getLsbD (i - 1) ^^ a.getLsbD 15)
      else a.getLsbD (i - 1) := by
  have hshift : (a <<< 1).getLsbD i = (!decide (i = 0) && a.getLsbD (i - 1)) := by
    simp only [BitVec.getLsbD_shiftLeft, hi, decide_true, Bool.true_and, Nat.lt_one_iff]
  cases htop : a.getLsbD 15 with
  | true =>
    rw [crcRound_of_top htop, BitVec.getLsbD_xor, hshift, crcPoly_getLsbD hi]
    split_ifs with hzero htap <;> simp [*]
  | false =>
    rw [crcRound_of_not_top htop, hshift]
    split_ifs with hzero htap <;> simp [*]

/-- R100: each bit after the round is an XOR of bits before it. -/
theorem crcRound_xor (a a' : Word) : crcRound (a ^^^ a') = crcRound a ^^^ crcRound a' := by
  apply BitVec.eq_of_getLsbD_eq
  intro i hi
  simp only [BitVec.getLsbD_xor, crcRound_getLsbD _ hi]
  split_ifs
  · rfl
  · simp only [Bool.xor_assoc, Bool.xor_left_comm]
  · rfl

@[simp] theorem crcRound_zero : crcRound 0x0000#16 = 0x0000#16 := rfl

/-- Bit 0 after the round is the bit shifted out, and with it every other bit can be told. -/
theorem crcRound_injective : Function.Injective crcRound := by
  intro a a' h
  have hbit (i : Nat) : (crcRound a).getLsbD i = (crcRound a').getLsbD i := by rw [h]
  have htop : a.getLsbD 15 = a'.getLsbD 15 := by
    have hzero := hbit 0
    rwa [crcRound_getLsbD _ (by decide), crcRound_getLsbD _ (by decide)] at hzero
  apply BitVec.eq_of_getLsbD_eq
  intro i hi
  by_cases hlast : i = 15
  · rw [hlast, htop]
  · have hnext := hbit (i + 1)
    rw [crcRound_getLsbD _ (by omega), crcRound_getLsbD _ (by omega), htop, if_neg (Nat.succ_ne_zero i),
      if_neg (Nat.succ_ne_zero i), Nat.add_sub_cancel] at hnext
    split_ifs at hnext
    · exact Bool.xor_left_inj.mp hnext
    · exact hnext

/-! ### The byte -/

theorem crcOperand_eq_append (b : Byte) : crcOperand b = b ++ 0x00#8 := by
  calc crcOperand b
      = b.setWidth 16 <<< 8 ||| (0x00#8).setWidth 16 := BitVec.or_zero.symm
    _ = (b ++ 0x00#8).setWidth 16 := BitVec.setWidth_append_eq_shiftLeft_setWidth_or.symm
    _ = b ++ 0x00#8 := BitVec.setWidth_eq _

/-- R91: the byte is one XOR and eight rounds. -/
theorem crcByte_eq_rounds (a : Word) (b : Byte) : crcByte a b = crcRound^[8] (a ^^^ crcOperand b) := rfl

theorem crcOperand_xor (b b' : Byte) : crcOperand (b ^^^ b') = crcOperand b ^^^ crcOperand b' := by
  rw [crcOperand, BitVec.zeroExtend_eq_setWidth, BitVec.setWidth_xor, BitVec.shiftLeft_xor_distrib]
  rfl

theorem crcOperand_injective : Function.Injective crcOperand := by
  intro b b' h
  rw [crcOperand_eq_append, crcOperand_eq_append] at h
  exact (BitVec.append_left_inj _).mp h

theorem crcRounds_xor (n : Nat) (a a' : Word) : crcRound^[n] (a ^^^ a') = crcRound^[n] a ^^^ crcRound^[n] a' := by
  induction n generalizing a a' with
  | zero => rfl
  | succ n ih => rw [Function.iterate_succ_apply, crcRound_xor, ih]; rfl

/-- R100. -/
theorem crcByte_xor (a a' : Word) (b b' : Byte) : crcByte (a ^^^ a') (b ^^^ b') = crcByte a b ^^^ crcByte a' b' := by
  have hoperands : a ^^^ a' ^^^ crcOperand (b ^^^ b') = (a ^^^ crcOperand b) ^^^ (a' ^^^ crcOperand b') := by
    rw [crcOperand_xor]
    ac_rfl
  rw [crcByte_eq_rounds, hoperands, crcRounds_xor]
  rfl

/-- R99. -/
@[simp] theorem crcByte_zero : crcByte 0x0000#16 0x00#8 = 0x0000#16 := rfl

theorem crcByte_injective_acc (b : Byte) : Function.Injective fun a => crcByte a b := by
  intro a a' h
  exact (BitVec.xor_left_inj _).mp (crcRound_injective.iterate 8 h)

theorem crcByte_injective_byte (a : Word) : Function.Injective (crcByte a) := by
  intro b b' h
  exact crcOperand_injective ((BitVec.xor_right_inj _).mp (crcRound_injective.iterate 8 h))

/-! ### The fold and the checksum -/

theorem crcFold_eq_foldl (a : Word) (s : List Byte) : crcFold a s = s.foldl crcByte a := by
  induction s generalizing a with
  | nil => rfl
  | cons b s ih => exact ih _

/-- R93. -/
theorem crcFold_append (a : Word) (s t : List Byte) : crcFold a (s ++ t) = crcFold (crcFold a s) t := by
  simp only [crcFold_eq_foldl, List.foldl_append]

/-- R92, R93: the checksum of a whole buffer is its fold from 0x0000. -/
theorem crc16_length (s : List Byte) : crc16 s s.length = crcFold 0x0000#16 s := by
  rw [crc16, List.take_length]
  rfl

theorem crc16_of_length_eq {s : List Byte} {n : Nat} (hn : n = s.length) : crc16 s n = crcFold 0x0000#16 s := by
  rw [hn, crc16_length]

/-- R92: one byte more is one `crc_byte` more. -/
theorem crc16_succ {buf : List Byte} {n : Nat} (h : n < buf.length) :
    crc16 buf (n + 1) = crcByte (crc16 buf n) buf[n] := by
  rw [crc16, List.take_succ_eq_append_getElem h, crcFold_append]
  rfl

/-- R99: zero bytes leave a zero accumulator. -/
theorem crcFold_replicate_zero (n : Nat) : crcFold 0x0000#16 (List.replicate n 0x00#8) = 0x0000#16 := by
  induction n with
  | zero => rfl
  | succ n ih => rw [List.replicate_succ, crcFold_cons, crcByte_zero, ih]

/-- R100: byte by byte, the fold is linear in the accumulator and the buffer together. -/
theorem crcFold_xor {s t : List Byte} (h : s.length = t.length) (a a' : Word) :
    crcFold (a ^^^ a') (List.zipWith (· ^^^ ·) s t) = crcFold a s ^^^ crcFold a' t := by
  induction s generalizing t a a' with
  | nil => cases List.length_eq_zero_iff.mp h.symm; rfl
  | cons b s ih =>
    cases t with
    | nil => cases h
    | cons b' t =>
      rw [List.zipWith_cons_cons, crcFold_cons, crcByte_xor, ih (Nat.succ.inj h)]
      rfl

theorem crcFold_injective_acc (s : List Byte) : Function.Injective fun a => crcFold a s := by
  induction s with
  | nil => exact Function.injective_id
  | cons b s ih => exact ih.comp (crcByte_injective_acc b)

/-- R100: a buffer with one byte exchanged for another has another checksum. -/
theorem crcFold_ne_of_byte_ne {b b' : Byte} (h : b ≠ b') (a : Word) (s t : List Byte) :
    crcFold a (s ++ b :: t) ≠ crcFold a (s ++ b' :: t) := by
  rw [crcFold_append, crcFold_append]
  exact (crcFold_injective_acc t).ne ((crcByte_injective_byte _).ne h)

theorem xor_bit_ne {k : Nat} (hk : k < 8) (b : Byte) : b ^^^ (1#8 <<< k) ≠ b := by
  intro h
  have hbit : (b ^^^ (1#8 <<< k)).getLsbD k = b.getLsbD k := by rw [h]
  simp [hk] at hbit

/-! ### The residue -/

/-- Rounds that shift out no bit of a byte are a shift. -/
theorem crcRounds_setWidth (b : Byte) {n : Nat} (hn : n ≤ 8) :
    crcRound^[n] (b.setWidth 16) = b.setWidth 16 <<< n := by
  induction n with
  | zero => exact (BitVec.shiftLeft_zero _).symm
  | succ n ih =>
    have htop : (b.setWidth 16 <<< n).getLsbD 15 = false := by
      simp [BitVec.getLsbD_of_ge b (15 - n) (by omega)]
    rw [Function.iterate_succ_apply', ih (by omega), crcRound_of_not_top htop, BitVec.shiftLeft_add]

theorem append_bytes (a : Word) : a.extractLsb' 8 8 ++ a.extractLsb' 0 8 = a :=
  (BitVec.extractLsb'_append_extractLsb'_eq_extractLsb' rfl).trans BitVec.extractLsb'_eq_self

theorem xor_crcOperand_hi (a : Word) : a ^^^ crcOperand (a.extractLsb' 8 8) = (a.extractLsb' 0 8).setWidth 16 := by
  calc a ^^^ crcOperand (a.extractLsb' 8 8)
      = (a.extractLsb' 8 8 ++ a.extractLsb' 0 8) ^^^ (a.extractLsb' 8 8 ++ 0x00#8) := by
        rw [append_bytes, crcOperand_eq_append]
    _ = 0x00#8 ++ a.extractLsb' 0 8 := by rw [BitVec.xor_append, BitVec.xor_self, BitVec.xor_zero]
    _ = (a.extractLsb' 0 8).setWidth 16 := (BitVec.setWidth_eq_append (by decide)).symm

/-- R101: the high byte cancels, and eight rounds shift the low byte up. -/
theorem crcByte_hi (a : Word) : crcByte a (a.extractLsb' 8 8) = a.extractLsb' 0 8 ++ 0x00#8 := by
  rw [crcByte_eq_rounds, xor_crcOperand_hi, crcRounds_setWidth _ (Nat.le_refl 8), ← crcOperand_eq_append]
  rfl

/-- R101: a word with only a high byte is cancelled by it. -/
theorem crcByte_append_zero (b : Byte) : crcByte (b ++ 0x00#8) b = 0x0000#16 := by
  rw [crcByte_eq_rounds, crcOperand_eq_append, BitVec.xor_self]
  rfl

/-- R101: any accumulator is cleared by its own two bytes, the high one first. -/
theorem crcFold_own_bytes (a : Word) : crcFold a [a.extractLsb' 8 8, a.extractLsb' 0 8] = 0x0000#16 := by
  rw [crcFold_cons, crcByte_hi, crcFold_cons, crcByte_append_zero, crcFold_nil]

/-! ### The statements -/

/-- Settles O19: the two cases of the definition, its bits, and the rule's examples by evaluation. -/
theorem crcRoundBitForm : Obligations.CrcRoundBitForm := by
  unfold Obligations.CrcRoundBitForm
  exact ⟨fun _ => crcRound_of_top, fun _ => crcRound_of_not_top, fun a _ hi => crcRound_getLsbD a hi,
    rfl, rfl, rfl, rfl⟩

/-- Settles O21: the loop takes one byte at a time, and sees the buffer only through its first bytes. -/
theorem crcSixteenIsTheLoop : Obligations.CrcSixteenIsTheLoop := by
  unfold Obligations.CrcSixteenIsTheLoop
  refine ⟨fun _ => rfl, fun _ _ h => crc16_succ h, fun buf buf' n h => ?_, by decide +kernel⟩
  rw [crc16, h, crc16]

/-- Settles O22. -/
theorem crcFoldOfConcatenation : Obligations.CrcFoldOfConcatenation := by
  unfold Obligations.CrcFoldOfConcatenation
  exact ⟨crcFold_nil, crcFold_cons, fun _ _ => rfl, crcFold_append⟩

/-- Settles O23: leading zero bytes leave the accumulator where the checksum begins. -/
theorem leadingZerosAreInvisible : Obligations.LeadingZerosAreInvisible := by
  unfold Obligations.LeadingZerosAreInvisible
  refine ⟨crcRound_zero, crcByte_zero, crcFold_replicate_zero, fun n => ?_, fun n s => ?_⟩
  · rw [crc16_of_length_eq (by simp), crcFold_replicate_zero]
  · rw [crc16_of_length_eq (by simp), crcFold_append, crcFold_replicate_zero, crc16_length]

/-- Settles O24: the checksums of both buffers and of their XOR start from 0x0000. -/
theorem checksumIsLinear : Obligations.ChecksumIsLinear := by
  unfold Obligations.ChecksumIsLinear
  refine ⟨crcRound_xor, crcByte_xor, fun s t h => ?_⟩
  rw [crc16_of_length_eq (by simp [h]), crc16_length, crc16_length]
  exact crcFold_xor h 0x0000#16 0x0000#16

/-- Settles O25: by linearity the last byte's bit 0 adds `crc_byte(0x0000, 0x01)`; any changed byte is seen because
nothing that follows can bring two accumulators together. -/
theorem singleBitChangesAreSeen : Obligations.SingleBitChangesAreSeen := by
  unfold Obligations.SingleBitChangesAreSeen
  refine ⟨fun s b => ?_, fun s t b k hk => ?_⟩
  · have hone : crcByte 0x0000#16 0x01#8 = 0x1021#16 := rfl
    rw [crc16_of_length_eq (by simp), crc16_of_length_eq (by simp), crcFold_append, crcFold_append]
    calc crcByte (crcFold 0x0000#16 s) (b ^^^ 0x01#8)
        = crcByte (crcFold 0x0000#16 s ^^^ 0x0000#16) (b ^^^ 0x01#8) := by rw [BitVec.xor_zero]
      _ = crcByte (crcFold 0x0000#16 s) b ^^^ crcByte 0x0000#16 0x01#8 := crcByte_xor _ _ _ _
      _ = crcByte (crcFold 0x0000#16 s) b ^^^ 0x1021#16 := by rw [hone]
  · rw [crc16_of_length_eq (by simp; omega), crc16_of_length_eq (by simp; omega)]
    exact crcFold_ne_of_byte_ne (xor_bit_ne hk b) _ s t

/-- Settles O26: the checksum of a buffer is an accumulator, and its own two bytes clear it. -/
theorem residueIsZero : Obligations.ResidueIsZero := by
  unfold Obligations.ResidueIsZero
  exact ⟨crcByte_hi, fun _ => crcByte_append_zero _, fun s => crcFold_own_bytes (crc16 s s.length)⟩

end Sys2Proof.Machine

/-! PROOFS. The engine's commands (spec/40_crc_engine.md R94 to R97, R102): what each does to ACC and reads, and the
command words that stand for it. -/

namespace Sys2Proof.Safety

open Sys2Proof.Machine

/-! ### The command words -/

/-- R60: a command word decodes as its `op` and its `din` stand in it. -/
theorem decode_command_append (rst : Bool) (op : Op) (din : Byte) :
    decode (.command rst (op ++ din)) = decodeCommand rst op din := by
  rw [decode, ← commandWord, commandOp_commandWord, commandDin_commandWord]

/-- R65: a `BYTE`'s word is `0x200 + b`. -/
theorem commandWord_byte (b : Byte) : commandWord 0b10#2 b = 0x200#10 + BitVec.zeroExtend 10 b := by
  apply BitVec.eq_of_toNat_eq
  rw [commandWord_toNat, BitVec.toNat_add, BitVec.zeroExtend_eq_setWidth, BitVec.toNat_setWidth]
  simp only [BitVec.toNat_ofNat]
  omega

/-! ### An engine step from the queue -/

/-- R29: with all ports presented, the step is the block's on those ports, or the fault. -/
theorem step_inputs {s : State} {i : StepInput} {rest : List Presented} (hq : s.queue = .inputs i :: rest) :
    step s =
      if illOf i then raiseIllegalCommand { s with input := i, queue := rest }
      else .next (commitStep (nextAcc s.acc i) { s with input := i, queue := rest }) :=
  (step_of_queue_cons hq).trans (exec_decodeCommand { s with input := i, queue := rest })

theorem step_inputs_next {s t : State} {i : StepInput} {rest : List Presented} (hq : s.queue = .inputs i :: rest)
    (hstep : step s = .next t) :
    illOf i = false ∧ t = commitStep (nextAcc s.acc i) { s with input := i, queue := rest } :=
  exec_decodeCommand_next ((step_of_queue_cons hq).symm.trans hstep) rfl

/-- R102: the new ACC is a function of the old one and of the engine's ports. -/
theorem nextAcc_congr {i i' : StepInput} (hrst : i.rst = i'.rst) (hop : i.op = i'.op) (hdin : i.din = i'.din)
    (acc : Word) : nextAcc acc i = nextAcc acc i' := by
  rw [nextAcc, hrst, hop, hdin, nextAcc]

theorem illOf_congr {i i' : StepInput} (hrst : i.rst = i'.rst) (hop : i.op = i'.op) : illOf i = illOf i' := by
  rw [illOf, hrst, hop, illOf]

/-- Settles O10: whether the step completes, and the ACC it gives, are functions of ACC and of the engine's ports. -/
theorem accDependsOnEngineInputsOnly : Obligations.AccDependsOnEngineInputsOnly := by
  unfold Obligations.AccDependsOnEngineInputsOnly
  intro s s' t i i' rest rest' hq hq' hacc hrst hop hdin hstep
  obtain ⟨hill, rfl⟩ := step_inputs_next hq hstep
  have hill' : ¬illOf i' = true := Bool.eq_false_iff.mp ((illOf_congr hrst hop).symm.trans hill)
  refine ⟨_, (step_inputs hq').trans (if_neg hill'), ?_⟩
  rw [commitStep_acc, commitStep_acc, ← hacc, nextAcc_congr hrst hop hdin]

/-! ### The commands -/

/-- Settles O12: the operation is one step with ACC kept, and its words are those of `op` 0b00. -/
theorem nopKeepsAcc : Obligations.NopKeepsAcc := by
  unfold Obligations.NopKeepsAcc
  exact ⟨fun _ => ⟨_, rfl, rfl, rfl, rfl⟩, decode_command_append false 0b00#2, rfl⟩

/-- Settles O13: the step clears ACC and reads the old one; a `NOP` after it reads the cleared one. -/
theorem clrZeroesAcc : Obligations.ClrZeroesAcc := by
  unfold Obligations.ClrZeroesAcc
  exact ⟨fun _ => ⟨_, _, rfl, rfl, rfl, rfl, rfl, rfl⟩, decode_command_append false 0b01#2, rfl⟩

/-- Settles O14: the step is `absorbStep`; a byte equal to ACC's high one cancels it and shifts the low one up. -/
theorem byteAbsorbs : Obligations.ByteAbsorbs := by
  unfold Obligations.ByteAbsorbs
  refine ⟨fun b s => ⟨absorbStep b s, rfl, rfl, rfl, rfl⟩, fun b => congrArg _ (commandWord_byte b),
    fun b s t hrun hb => ?_, crcByte_zero, by decide +kernel, rfl⟩
  cases hrun
  rw [absorbStep_acc, hb, crcByte_hi]

/-- R97, R200: the reserved command's fault, with the level that stands on `din`. -/
theorem exec_ill {s : State} {din : Byte} (hdin : s.input.din = din) :
    exec .ill s =
      .fault (.illegalCommand (0b11#2 ++ din) s.steps (commitStep s.acc (driveCommand 0b11#2 din s))) := by
  subst hdin
  rfl

/-- Settles O15: the fault holds the state after a step with ACC kept; `rst` makes the same word a `Reset`; and what
follows the held state is a step of its own, which reads its own `ill`. -/
theorem reservedCommandFaults : Obligations.ReservedCommandFaults := by
  unfold Obligations.ReservedCommandFaults
  refine ⟨fun s => ⟨_, exec_ill rfl, rfl, rfl, rfl⟩, fun s din rest hq => ?_, fun s din rest hq => ?_,
    fun s held t cw n i rest hfault hq hstep => ?_⟩
  · rw [step_of_queue_cons hq, decode_command_append]
    exact ⟨_, exec_ill (commandDin_commandWord 0b11#2 din), rfl, rfl, rfl, rfl⟩
  · rw [step_of_queue_cons hq, decode_command_append]
    exact ⟨_, rfl, rfl, rfl⟩
  · cases hfault
    obtain ⟨hill, rfl⟩ := step_inputs_next hq hstep
    exact ⟨hill, rfl⟩

end Sys2Proof.Safety

/-! PROOFS. The bytes absorbed in a run (spec/40_crc_engine.md R92, spec/42_composite_ops.md R140 to R145). -/

namespace Sys2Proof.Safety

open Sys2Proof.Machine

/-! ### The payload that a validation absorbs -/

/-- A run of bytes that the frame has is supplied as it stands there. -/
theorem map_suppliedByte_range' {frame : List Byte} {off n : Nat} (h : off + n ≤ frame.length) (fresh : Nat) :
    (List.range' off n).map (suppliedByte frame fresh) = (frame.drop off).take n := by
  apply List.ext_getElem
  · rw [List.length_map, List.length_range', List.length_take, List.length_drop]
    omega
  · intro k hk _
    have hk : k < n := by simpa using hk
    simp [suppliedByte_of_lt (show off + k < frame.length by omega)]

/-- R48, R142: a complete data frame is supplied its payload, bytes 3 to N + 2. -/
theorem suppliedFields_payload {h : Byte} {more : List Byte} (hdata : isData h = true)
    (hcomplete : frameComplete (h :: more) = true) (fresh : Nat) :
    (suppliedFields (h :: more) fresh (payBytes (kindOf h))).payload = payloadOf (h :: more) := by
  have hlen : frameBytes (kindOf h) ≤ (h :: more).length := of_decide_eq_true hcomplete
  rw [frameBytes_of_isData hdata] at hlen
  exact map_suppliedByte_range' (by omega) fresh

/-- R142, R145: the ACC of a validation is the fold over the payload of a data frame, and ACC as it was for any
other. -/
theorem validateSupplied_acc {h : Byte} {more : List Byte} (hcomplete : frameComplete (h :: more) = true)
    (exp : Byte) (tstat : TStat) (s : State) :
    (validateSupplied (h :: more) exp tstat s).acc =
      if isData h then crcFold 0x0000#16 (payloadOf (h :: more)) else s.acc := by
  have hheader : suppliedByte (h :: more) s.fresh 0 = h := rfl
  simp only [validateSupplied, hheader]
  split
  next hdata =>
    simp only [validateData, runCheck_acc, absorbAll_acc, clearStep_acc, suppliedFields_payload hdata hcomplete]
    rfl
  next => rfl

/-! ### A run -/

/-- ACC is the checksum of these bytes. -/
def HoldsChecksum (bytes : List Byte) (s : State) : Prop := s.acc = crc16 bytes bytes.length

theorem holdsChecksum_iff {bytes : List Byte} {s : State} :
    HoldsChecksum bytes s ↔ s.acc = crcFold 0x0000#16 bytes := by
  rw [HoldsChecksum, crc16_length]

/-- R93, R141: bytes absorbed after others extend the checksum. -/
theorem absorbAll_holdsChecksum {before : List Byte} {s : State} (hs : HoldsChecksum before s) (buf : List Byte) :
    HoldsChecksum (before ++ buf) (absorbAll buf s) := by
  rw [holdsChecksum_iff] at hs ⊢
  rw [absorbAll_acc, hs, crcFold_append]

/-- R142, R145: a complete frame's validation completes, and begins anew with the payload of a data frame. -/
theorem execValidateFrame_holdsChecksum {before frame : List Byte} {s : State} (hs : HoldsChecksum before s)
    (hcomplete : frameComplete frame = true) (exp : Byte) (tstat : TStat) :
    ∃ t, execValidateFrame frame exp tstat s = .next t ∧
      HoldsChecksum (absorbedAfter before (.validateFrame frame exp tstat)) t := by
  have hw : (Instr.validateFrame frame exp tstat).wellFormed = true := by simp [Instr.wellFormed, hcomplete]
  obtain ⟨fresh, hexec⟩ := execValidateFrame_of_wellFormed hw s
  refine ⟨_, hexec, ?_⟩
  cases frame with
  | nil => cases hcomplete
  | cons h more =>
    rw [holdsChecksum_iff] at hs ⊢
    calc (validateSupplied (h :: more) exp tstat s).acc
        = if isData h then crcFold 0x0000#16 (payloadOf (h :: more)) else crcFold 0x0000#16 before := by
          rw [validateSupplied_acc hcomplete, hs]
      _ = crcFold 0x0000#16 (if isData h then payloadOf (h :: more) else before) :=
          (apply_ite (crcFold 0x0000#16) _ _ _).symm

/-- R92: an operation that completes takes the checksum of the bytes before it to that of the bytes after it. -/
theorem exec_holdsChecksum {i : Instr} (hi : plainUse i = true) {before : List Byte} {s : State}
    (hs : HoldsChecksum before s) : ∃ t, exec i s = .next t ∧ HoldsChecksum (absorbedAfter before i) t := by
  cases i with
  | ill => cases hi
  | byte b => exact ⟨_, rfl, absorbAll_holdsChecksum hs [b]⟩
  | bytes buf => exact ⟨_, rfl, absorbAll_holdsChecksum hs buf⟩
  | clr => exact ⟨_, rfl, rfl⟩
  | reset => exact ⟨_, rfl, rfl⟩
  | crc16 buf => exact ⟨_, rfl, absorbAll_holdsChecksum (before := []) (s := clearStep 0x00#8 s) rfl buf⟩
  | validateFrame frame exp tstat => exact execValidateFrame_holdsChecksum hs hi exp tstat
  | _ => exact ⟨_, rfl, hs⟩

theorem runInstrs_holdsChecksum {is : List Instr} (his : ∀ i ∈ is, plainUse i = true) {before : List Byte}
    {s : State} (hs : HoldsChecksum before s) :
    ∃ t, runInstrs is s = .next t ∧ HoldsChecksum (is.foldl absorbedAfter before) t := by
  induction is generalizing before s with
  | nil => exact ⟨s, rfl, hs⟩
  | cons i is ih =>
    rw [List.forall_mem_cons] at his
    obtain ⟨hi, his⟩ := his
    obtain ⟨t, hexec, ht⟩ := exec_holdsChecksum hi hs
    rw [runInstrs_cons hexec]
    exact ih his ht

/-- Settles O49: after `CLR` ACC is the checksum of no byte, and every operation of the run keeps the invariant. -/
theorem runAccIsTheChecksum : Obligations.RunAccIsTheChecksum := by
  unfold Obligations.RunAccIsTheChecksum
  intro is s his
  have hclr : exec .clr s = .next (clearStep s.input.din s) := rfl
  have hempty : HoldsChecksum [] (clearStep s.input.din s) := rfl
  rw [runInstrs_cons hclr]
  exact runInstrs_holdsChecksum his hempty

end Sys2Proof.Safety

/-! PROOFS. The frame validator (spec/41_frame_validator.md): the header byte's outcome and lengths (R110 to R119), the
flags of `CHECK` and its verdict (R120 to R126), and the queries' repetition (R128). -/

namespace Sys2Proof.Safety

open Sys2Proof.Machine

/-! ### The header byte -/

/-- R110, R116: the kind, with the headers of R66 written out. -/
theorem kindOf_eq (h : Byte) :
    kindOf h =
      if h = 0x01#8 then .smallData else if h = 0x02#8 then .largeData
      else if h = 0x04#8 then .endOfTransfer else if h = 0x18#8 then .cancel else .unknown := rfl

theorem kindOf_eq_unknown {h : Byte} (hsoh : h ≠ 0x01#8) (hstx : h ≠ 0x02#8) (heot : h ≠ 0x04#8)
    (hcan : h ≠ 0x18#8) : kindOf h = .unknown := by
  rw [kindOf_eq, if_neg hsoh, if_neg hstx, if_neg heot, if_neg hcan]

/-- R66. -/
theorem decodeHeader_eq (h : Byte) :
    decodeHeader h =
      if h = 0x01#8 then .classifySoh else if h = 0x02#8 then .classifyStx
      else if h = 0x04#8 then .classifyEot else if h = 0x18#8 then .classifyCan else .classifyUnknown h := by
  rw [decodeHeader, kindOf_eq]
  split_ifs <;> rfl

theorem decodeHeader_wellFormed (h : Byte) : (decodeHeader h).wellFormed = true := by
  obtain ⟨rfl, -⟩ | ⟨rfl, -⟩ | ⟨rfl, -⟩ | ⟨rfl, -⟩ | ⟨hw, -⟩ := kindOf_cases h
  · rfl
  · rfl
  · rfl
  · rfl
  · rwa [decodeHeader_of_unknown hw]

/-- R117. -/
theorem payLen_eq (h : Byte) :
    payLen h = if h = 0x01#8 then 128#11 else if h = 0x02#8 then 1024#11 else 0#11 := by
  rw [payLen, kindOf_eq]
  split_ifs <;> rfl

/-- R118. -/
theorem remLen_eq (h : Byte) :
    remLen h = if h = 0x01#8 then 132#11 else if h = 0x02#8 then 1028#11 else 0#11 := by
  rw [remLen, kindOf_eq]
  split_ifs <;> rfl

/-- R119. -/
theorem frameLen_eq (h : Byte) :
    frameLen h = if h = 0x01#8 then 133#11 else if h = 0x02#8 then 1029#11 else 1#11 := by
  rw [frameLen, kindOf_eq]
  split_ifs <;> rfl

/-- R110 `is_data`, told from port `kind`. -/
theorem isData_iff_kindCode {h : Byte} : isData h = true ↔ kindCode (kindOf h) = 1#3 ∨ kindCode (kindOf h) = 2#3 := by
  refine ⟨fun hdata => kindCode_of_data_header (isData_iff.mp hdata), fun hkind => isData_iff.mpr ?_⟩
  rw [kindOf_eq] at hkind
  split_ifs at hkind with hsoh hstx
  · exact .inl hsoh
  · exact .inr hstx
  all_goals exact absurd hkind (by decide)

/-- Settles O29: an engine step reads the lengths of the header on the port. -/
theorem lengthOutputsInEveryStep : Obligations.LengthOutputsInEveryStep := by
  unfold Obligations.LengthOutputsInEveryStep
  intro s t i rest hq hstep
  obtain ⟨-, rfl⟩ := step_inputs_next hq hstep
  exact ⟨payLen_eq i.hdr, remLen_eq i.hdr, frameLen_eq i.hdr, frameLen_eq_remLen_add_one i.hdr⟩

/-- Settles O4. -/
theorem headerBytesHaveOneOutcome : Obligations.HeaderBytesHaveOneOutcome := by
  unfold Obligations.HeaderBytesHaveOneOutcome
  exact fun h => ⟨decodeHeader_eq h, decodeHeader_wellFormed h, encode_decodeHeader h⟩

/-- Settles O27: each outcome is the classification of its own header. -/
theorem knownHeadersClassify : Obligations.KnownHeadersClassify := by
  unfold Obligations.KnownHeadersClassify
  exact fun s =>
    ⟨⟨classify 0x01#8 s, rfl, rfl, rfl, rfl, rfl, rfl, rfl⟩, ⟨classify 0x02#8 s, rfl, rfl, rfl, rfl, rfl, rfl, rfl⟩,
      ⟨classify 0x04#8 s, rfl, rfl, rfl, rfl, rfl, rfl, rfl⟩, ⟨classify 0x18#8 s, rfl, rfl, rfl, rfl, rfl, rfl, rfl⟩⟩

/-- Settles O28: every port of the header is a function of its kind. -/
theorem otherHeadersAreUnknown : Obligations.OtherHeadersAreUnknown := by
  unfold Obligations.OtherHeadersAreUnknown
  intro h s hsoh hstx heot hcan
  have hkind : kindOf h = .unknown := kindOf_eq_unknown hsoh hstx heot hcan
  refine ⟨classify h s, rfl, rfl, ?_⟩
  simp [payLen, remLen, frameLen, hkind, kindCode, payBytes, remBytes, frameBytes, frameFormat]

/-! ### The complement check -/

/-- R123: the sum without a width. -/
theorem toNat_add_toNat_eq_iff (seq cmpl : Byte) : seq.toNat + cmpl.toNat = 255 ↔ cmpl = ~~~seq := by
  rw [← BitVec.toNat_inj, BitVec.toNat_not]
  omega

/-- R123: the sum at 8 bits. -/
theorem add_eq_allOnes_iff (seq cmpl : Byte) : seq + cmpl = 0xFF#8 ↔ cmpl = ~~~seq := by
  rw [← BitVec.toNat_inj, BitVec.toNat_add, BitVec.toNat_ofNat, ← toNat_add_toNat_eq_iff]
  omega

/-- R123: the sum as an XOR. -/
theorem xor_eq_allOnes_iff (seq cmpl : Byte) : seq ^^^ cmpl = 0xFF#8 ↔ cmpl = ~~~seq := by
  have hnot : seq ^^^ ~~~seq = 0xFF#8 := by rw [← BitVec.not_xor_right, BitVec.xor_self]; rfl
  rw [← hnot, BitVec.xor_right_inj]

/-! ### The verdict -/

theorem forall_cause_iff {p : RejectionCause → Prop} :
    (∀ c, p c) ↔ p .hdr ∧ p .uart ∧ p .number ∧ p .cmpl ∧ p .crc := by
  refine ⟨fun h => ⟨h _, h _, h _, h _, h _⟩, fun ⟨hhdr, huart, hnumber, hcmpl, hcrc⟩ c => ?_⟩
  cases c <;> assumption

section
variable {acc : Word} {i : StepInput}

theorem accept_iff_err : (outputs acc i).accept = true ↔ (outputs acc i).err = 0b00000#5 := by
  rw [outputs_accept, outputs_err, beq_iff_eq]

/-- R126: acceptance is that no cause holds. -/
theorem accept_iff_no_cause : (outputs acc i).accept = true ↔ ∀ c, causeHolds acc i c = false := by
  rw [accept_iff_err, outputs_err, eq_comm, eq_errBits_iff]
  simp only [BitVec.getLsbD_zero, eq_comm]

theorem accept_eq_false_of_cause {c : RejectionCause} (h : causeHolds acc i c = true) :
    (outputs acc i).accept = false := by
  rw [← Bool.not_eq_true, accept_iff_no_cause]
  intro hnone
  rw [hnone c] at h
  cases h

/-- R126: the five conditions. -/
theorem accept_iff_conditions : (outputs acc i).accept = true ↔
    (i.hdr = 0x01#8 ∨ i.hdr = 0x02#8) ∧ i.tstat = 0b00#2 ∧ i.seq = i.expSeq ∧ i.cmpl = ~~~i.seq ∧
      i.crcHi ++ i.crcLo = acc := by
  obtain ⟨huart, hnumber, hcmpl, hcrc, hhdr⟩ := causeHolds_eq acc i
  rw [accept_iff_no_cause, forall_cause_iff, huart, hnumber, hcmpl, hcrc, hhdr]
  simp [or_iff_not_imp_left]

end

/-! ### `CHECK` -/

section
variable {tstat : TStat} {seq cmpl expSeq crcHi crcLo hdr : Byte} {s t : State}

/-- R120: `CHECK` can only complete, with its operands driven and the outputs read. -/
theorem exec_check_next (h : exec (.check tstat seq cmpl expSeq crcHi crcLo hdr) s = .next t) :
    t = runCheck tstat seq cmpl expSeq crcHi crcLo hdr s := by
  cases h
  rfl

/-- R121 to R125: each bit that `CHECK` reads, from its own operands. -/
theorem runCheck_err_bits :
    let err := (runCheck tstat seq cmpl expSeq crcHi crcLo hdr s).output.err
    err.getLsbD 0 = decide (tstat ≠ 0b00#2) ∧ err.getLsbD 1 = decide (seq ≠ expSeq) ∧
      err.getLsbD 2 = decide (cmpl ≠ ~~~seq) ∧ err.getLsbD 3 = decide (crcHi ++ crcLo ≠ s.acc) ∧
      err.getLsbD 4 = !(hdr == 0x01#8 || hdr == 0x02#8) := by
  have hbit := errBits_causeBit s.acc (runCheck tstat seq cmpl expSeq crcHi crcLo hdr s).input
  obtain ⟨huart, hnumber, hcmpl, hcrc, hhdr⟩ :=
    causeHolds_eq s.acc (runCheck tstat seq cmpl expSeq crcHi crcLo hdr s).input
  exact ⟨(hbit .uart).trans huart, (hbit .number).trans hnumber, (hbit .cmpl).trans hcmpl, (hbit .crc).trans hcrc,
    (hbit .hdr).trans hhdr⟩

/-- R126: a bit that is set rejects. -/
theorem runCheck_rejects (c : RejectionCause)
    (h : (runCheck tstat seq cmpl expSeq crcHi crcLo hdr s).output.err.getLsbD (causeBit c) = true) :
    (runCheck tstat seq cmpl expSeq crcHi crcLo hdr s).output.accept = false :=
  accept_eq_false_of_cause ((errBits_causeBit _ _ c).symm.trans h)

end

/-- Settles O30: the complement's bit is given by the 9-bit sum. -/
theorem checkComputesEveryErrorBit : Obligations.CheckComputesEveryErrorBit := by
  unfold Obligations.CheckComputesEveryErrorBit
  intro tstat seq cmpl expSeq crcHi crcLo hdr s
  obtain ⟨huart, hnumber, hcmpl, hcrc, hhdr⟩ := runCheck_err_bits (s := s)
  refine ⟨_, rfl, huart, hnumber, hcmpl.trans ?_, hcrc, hhdr, accept_iff_err, rfl⟩
  exact decide_eq_decide.mpr (complementSum_eq_seqSum_iff seq cmpl).symm.not

/-- Settles O31. -/
theorem acceptIsTheConjunction : Obligations.AcceptIsTheConjunction := by
  unfold Obligations.AcceptIsTheConjunction
  intro tstat seq cmpl expSeq crcHi crcLo hdr s t hrun
  obtain rfl := exec_check_next hrun
  exact ⟨accept_iff_conditions, accept_iff_err⟩

/-- Settles O32: every form says that the second byte is the complement of the first. -/
theorem complementCheckForms : Obligations.ComplementCheckForms := by
  unfold Obligations.ComplementCheckForms
  intro tstat seq cmpl expSeq crcHi crcLo hdr s t hrun
  obtain rfl := exec_check_next hrun
  obtain ⟨-, -, hcmpl, -, -⟩ := runCheck_err_bits (s := s)
  have hform {p : Prop} [Decidable p] (hp : p ↔ cmpl = ~~~seq) :
      (runCheck tstat seq cmpl expSeq crcHi crcLo hdr s).output.err.getLsbD 2 = decide (¬p) :=
    hcmpl.trans (decide_eq_decide.mpr hp.symm.not)
  refine ⟨hform (complementSum_eq_seqSum_iff seq cmpl), hform (toNat_add_toNat_eq_iff seq cmpl),
    hform (add_eq_allOnes_iff seq cmpl), hcmpl, hform (xor_eq_allOnes_iff seq cmpl), fun hsum => ?_⟩
  exact runCheck_rejects .cmpl ((hform (toNat_add_toNat_eq_iff seq cmpl)).trans (decide_eq_true hsum))

/-- Settles O33: each of the two sets its bit, and a bit that is set rejects. -/
theorem badHeaderOrTransportRejects : Obligations.BadHeaderOrTransportRejects := by
  unfold Obligations.BadHeaderOrTransportRejects
  intro tstat seq cmpl expSeq crcHi crcLo hdr s t hrun
  obtain rfl := exec_check_next hrun
  obtain ⟨huart, -, -, -, hhdr⟩ := runCheck_err_bits (s := s)
  refine ⟨fun hstatus => ?_, ?_, fun hsoh hstx => ?_⟩
  · have hbit := huart.trans (decide_eq_true hstatus)
    exact ⟨hbit, runCheck_rejects .uart hbit⟩
  · calc (runCheck tstat seq cmpl expSeq crcHi crcLo hdr s).output.err.getLsbD 4 = true
        ↔ ¬isData hdr = true := by rw [hhdr, Bool.not_eq_true', Bool.not_eq_true]; rfl
      _ ↔ kindCode (kindOf hdr) ≠ 1#3 ∧ kindCode (kindOf hdr) ≠ 2#3 := by rw [isData_iff_kindCode, not_or]
  · have hbit : (runCheck tstat seq cmpl expSeq crcHi crcLo hdr s).output.err.getLsbD 4 = true := by
      rw [hhdr]
      simp [hsoh, hstx]
    exact ⟨hbit, runCheck_rejects .hdr hbit⟩

/-! ### Repeating a query -/

/-- R128: driving the same ports and reading again changes nothing. -/
theorem classify_classify (h : Byte) (s : State) : classify h (classify h s) = classify h s := rfl

theorem runCheck_runCheck (tstat : TStat) (seq cmpl expSeq crcHi crcLo hdr : Byte) (s : State) :
    runCheck tstat seq cmpl expSeq crcHi crcLo hdr (runCheck tstat seq cmpl expSeq crcHi crcLo hdr s) =
      runCheck tstat seq cmpl expSeq crcHi crcLo hdr s := rfl

/-- R110, R120: a query is the same classification, or the same check, in every state. -/
theorem exec_query_eq {i : Instr} (hi : IsQuery i) :
    (∃ h, ∀ s, exec i s = .next (classify h s)) ∨
      ∃ tstat seq cmpl expSeq crcHi crcLo hdr,
        ∀ s, exec i s = .next (runCheck tstat seq cmpl expSeq crcHi crcLo hdr s) := by
  obtain rfl | rfl | rfl | rfl | ⟨h, rfl⟩ | ⟨tstat, seq, cmpl, expSeq, crcHi, crcLo, hdr, rfl⟩ := hi
  case inr.inr.inr.inr.inr => exact .inr ⟨tstat, seq, cmpl, expSeq, crcHi, crcLo, hdr, fun _ => rfl⟩
  all_goals exact .inl ⟨_, fun _ => rfl⟩

/-- Settles O35: a query is idempotent as the classification, or the check, that it is. -/
theorem queriesAreIdempotent : Obligations.QueriesAreIdempotent := by
  unfold Obligations.QueriesAreIdempotent
  intro i s t hi hrun
  obtain ⟨h, hexec⟩ | ⟨tstat, seq, cmpl, expSeq, crcHi, crcLo, hdr, hexec⟩ := exec_query_eq hi
  · cases (hexec s).symm.trans hrun
    exact ⟨classify_acc h s, by rw [hexec, classify_classify]⟩
  · cases (hexec s).symm.trans hrun
    exact ⟨runCheck_acc .., by rw [hexec, runCheck_runCheck]⟩

end Sys2Proof.Safety

/-! PROOFS. The pseudo-operations of the engine (spec/42_composite_ops.md R140, R141, R147): what `CRC16` and `BYTES` do
to ACC and the ports, and the words of their expansions. -/

namespace Sys2Proof.Safety

open Sys2Proof.Machine

/-- D7, R140: the canonical word of `CLR`. -/
theorem encode_clr : encode .clr = .command false 0x100#10 := rfl

/-- R65, R140: the canonical word of `BYTE b` is `0x200 + b`. -/
theorem encode_byte (b : Byte) : encode (.byte b) = .command false (0x200#10 + BitVec.zeroExtend 10 b) :=
  congrArg (Presented.command false) (commandWord_byte b)

/-- R141: of the ports, a buffer's steps leave all but the engine's three as they were. -/
theorem absorbAll_validatorPorts (bs : List Byte) (s : State) :
    (absorbAll bs s).input =
      { s.input with
        rst := (absorbAll bs s).input.rst, op := (absorbAll bs s).input.op, din := (absorbAll bs s).input.din } := by
  obtain ⟨rst, op, din, hinput⟩ := absorbAll_input bs s
  rw [hinput]

/-- R140: the `CLR` makes the buffer's checksum of the fold, whatever ACC was. -/
theorem crc16_acc (buf : List Byte) (s : State) :
    (absorbAll buf (clearStep 0x00#8 s)).acc = crc16 buf buf.length := by
  rw [absorbAll_acc, crc16_length]
  rfl

/-- Presenting an operation's expansion, and no more, is running the operation, when that completes and leaves the queue
as it was. -/
theorem runPresented_eq_exec {i : Instr} {q rest : List Presented} {s t : State}
    (hexec : exec i { s with queue := rest } = .next t) (hq : PresentingTakes q { s with queue := rest } t) :
    runPresented q.length { s with queue := q ++ rest } = exec i { s with queue := rest } := by
  have hqueue : rest = t.queue := (exec_keeps_queue hexec).symm
  calc runPresented q.length { s with queue := q ++ rest }
      = .next { t with queue := rest } := hq.runPresented_eq
    _ = .next t := by rw [hqueue]
    _ = exec i { s with queue := rest } := hexec.symm

/-- Settles O38: the operation is the `CLR` step and the buffer's steps, and so is presenting their words. -/
theorem crcSixteenOfBuffer : Obligations.CrcSixteenOfBuffer := by
  unfold Obligations.CrcSixteenOfBuffer
  refine ⟨fun buf s => ⟨_, rfl, crc16_acc buf s, ?_, ?_, ?_, absorbAll_validatorPorts buf _⟩, fun buf s rest => ?_⟩
  · rw [absorbAll_steps, clearStep_steps]
    omega
  · rw [absorbAll_queue, clearStep_queue]
  · rw [absorbAll_fresh, clearStep_fresh]
  · have hrun := runPresented_eq_exec (i := .crc16 buf) (s := s) (rest := rest) rfl
      ((presentingTakes_clr _).cons (presentingTakes_bytes buf _))
    simpa only [encode_clr, encode_byte, List.length_cons, List.length_map] using hrun

/-- Settles O39: the operation is the buffer's steps; after a `CRC16` they extend its checksum. -/
theorem bytesExtendTheChecksum : Obligations.BytesExtendTheChecksum := by
  unfold Obligations.BytesExtendTheChecksum
  refine ⟨fun buf s => ⟨_, rfl, absorbAll_acc buf s, absorbAll_steps buf s, absorbAll_queue buf s,
    absorbAll_fresh buf s, absorbAll_validatorPorts buf s⟩, fun a b s => ?_, fun buf s rest => ?_⟩
  · exact ⟨_, rfl, absorbAll_holdsChecksum (crc16_acc a s) b⟩
  · have hrun := runPresented_eq_exec (i := .bytes buf) (s := s) (rest := rest) rfl (presentingTakes_bytes buf _)
    simpa only [encode_byte, List.length_map] using hrun

end Sys2Proof.Safety

/-! PROOFS. The validation of a frame (spec/42_composite_ops.md R142 to R146): what it completes as, of a frame with all
its bytes and of any frame with a status other than Ok, and where it is refused. -/

namespace Sys2Proof.Safety

open Sys2Proof.Machine

/-! ### Frames with all their bytes -/

/-- R145: a frame that is no data frame is its header alone, whatever follows it. -/
theorem frameBytes_of_not_isData {h : Byte} (hcontrol : isData h = false) : frameBytes (kindOf h) = 1 := by
  obtain ⟨rfl, -⟩ | ⟨rfl, -⟩ | ⟨-, hkind⟩ | ⟨-, hkind⟩ | ⟨-, hkind⟩ := kindOf_cases h
  · cases hcontrol
  · cases hcontrol
  all_goals rw [hkind]; rfl

theorem frameComplete_cons_iff {h : Byte} {more : List Byte} :
    frameComplete (h :: more) = true ↔ frameBytes (kindOf h) ≤ more.length + 1 := by
  rw [frameComplete, decide_eq_true_iff, List.length_cons]

theorem frameComplete_of_control {h : Byte} (hcontrol : isData h = false) (more : List Byte) :
    frameComplete (h :: more) = true := by
  rw [frameComplete_cons_iff, frameBytes_of_not_isData hcontrol]
  omega

/-- R48: a complete data frame has all the offsets of its payload, the three before it and the two behind. -/
theorem length_of_complete_data {h : Byte} {more : List Byte} (hdata : isData h = true)
    (hcomplete : frameComplete (h :: more) = true) : payBytes (kindOf h) + 5 ≤ (h :: more).length := by
  rwa [frameComplete_cons_iff, frameBytes_of_isData hdata] at hcomplete

theorem memRead1_header (h : Byte) (more : List Byte) (tstat : TStat) (fresh : Nat) :
    memRead1 (h :: more) tstat fresh 0 = .ok h := rfl

/-- R145: the validation of a frame that is no data frame classifies its header and checks it. -/
theorem execValidateFrame_of_control {h : Byte} (hcontrol : isData h = false) (more : List Byte) (exp : Byte)
    (tstat : TStat) (s : State) :
    execValidateFrame (h :: more) exp tstat s =
      .next (spendFresh (validateControl h exp tstat (classify h s))) := by
  simp only [execValidateFrame, memRead1_header, hcontrol, Bool.false_eq_true, if_false]

@[simp] theorem validateData_fresh (f : FrameFields) (h exp : Byte) (tstat : TStat) (s : State) :
    (validateData f h exp tstat s).fresh = s.fresh := by
  simp [validateData]

/-- R142: the validation of a complete data frame is that of the frame's own bytes, and draws no free byte. -/
theorem execValidateFrame_of_data {h : Byte} {more : List Byte} (hdata : isData h = true)
    (hcomplete : frameComplete (h :: more) = true) (exp : Byte) (tstat : TStat) (s : State) :
    execValidateFrame (h :: more) exp tstat s =
      .next (validateData (suppliedFields (h :: more) s.fresh (payBytes (kindOf h))) h exp tstat (classify h s)) := by
  have hw : (Instr.validateFrame (h :: more) exp tstat).wellFormed = true := by simp [Instr.wellFormed, hcomplete]
  have hfields : dataFields (h :: more) tstat s.fresh (payBytes (kindOf h)) =
      .ok (suppliedFields (h :: more) s.fresh (payBytes (kindOf h))) :=
    dataFields_eq fun k hk => memRead1_of_wellFormed hw (by rwa [← frameBytes_of_isData hdata] at hk) (.inr hdata)
  simp only [execValidateFrame, memRead1_header, hdata, if_true, payLen_toNat, hfields, hcomplete]

theorem suppliedByte_of_lt_length {frame : List Byte} {off : Nat} (h : off < frame.length) (fresh : Nat) :
    suppliedByte frame fresh off = frame.getD off 0#8 := by
  rw [suppliedByte_of_lt h, List.getD_eq_getElem _ _ h]

/-! ### The whole-frame predicate -/

/-- R143: the frame has a data header and the full length for its `n` payload bytes. -/
structure IsFullFrame (frame : List Byte) (n : Nat) : Prop where
  header : frame.getD 0 0#8 = 0x01#8 ∧ n = 128 ∨ frame.getD 0 0#8 = 0x02#8 ∧ n = 1024
  length : frame.length = n + 5

/-- R110, R117: a full frame is its header and more, the header a data header and `n` the payload bytes of its kind. -/
theorem IsFullFrame.exists_cons {frame : List Byte} {n : Nat} (hfull : IsFullFrame frame n) :
    ∃ h more, frame = h :: more ∧ isData h = true ∧ n = payBytes (kindOf h) := by
  obtain ⟨hheader, hlen⟩ := hfull
  cases frame with
  | nil => cases hlen
  | cons h more =>
    refine ⟨h, more, rfl, ?_⟩
    obtain ⟨rfl, rfl⟩ | ⟨rfl, rfl⟩ : h = 0x01#8 ∧ n = 128 ∨ h = 0x02#8 ∧ n = 1024 := hheader
    · exact ⟨rfl, rfl⟩
    · exact ⟨rfl, rfl⟩

/-- R143: `frame_ok` of a full frame is its conditions on the fields. -/
theorem frameOk_iff {frame : List Byte} {n : Nat} (hfull : IsFullFrame frame n) {e : Byte} {t : TStat} :
    frameOk frame e t = true ↔
      t = 0b00#2 ∧ frame.getD 1 0#8 = e ∧ frame.getD 2 0#8 = ~~~(frame.getD 1 0#8) ∧
        (frame.getD (n + 3) 0#8 ++ frame.getD (n + 4) 0#8 : Word) = crc16 ((frame.drop 3).take n) n := by
  obtain ⟨hheader, hlen⟩ := hfull
  cases frame with
  | nil => cases hlen
  | cons h more =>
    obtain ⟨hn, hdata⟩ : (if h = 0x01#8 then 128 else 1024) = n ∧ (h == 0x01#8 || h == 0x02#8) = true := by
      obtain ⟨rfl, rfl⟩ | ⟨rfl, rfl⟩ : h = 0x01#8 ∧ n = 128 ∨ h = 0x02#8 ∧ n = 1024 := hheader
      · exact ⟨rfl, rfl⟩
      · exact ⟨rfl, rfl⟩
    have hcmpl := complementSum_eq_seqSum_iff ((h :: more).getD 1 0#8) ((h :: more).getD 2 0#8)
    rw [complementSum, Config.seqSum] at hcmpl
    simp only [frameOk, hn, hdata, hlen, Bool.and_eq_true, beq_iff_eq, hcmpl, true_and, and_assoc]

/-! ### Full data frames -/

/-- R142: what the validation of a full data frame ends in: the payload absorbed after the `CLR`, and the frame's fields
checked. -/
def judgeFrame (frame : List Byte) (n : Nat) (exp : Byte) (tstat : TStat) (s : State) : State :=
  runCheck tstat (frame.getD 1 0#8) (frame.getD 2 0#8) exp (frame.getD (n + 3) 0#8) (frame.getD (n + 4) 0#8)
    (frame.getD 0 0#8) (absorbAll ((frame.drop 3).take n) (clearStep 0x00#8 (classify (frame.getD 0 0#8) s)))

theorem judgeFrame_queue (frame : List Byte) (n : Nat) (exp : Byte) (tstat : TStat) (s : State) :
    (judgeFrame frame n exp tstat s).queue = s.queue := by
  simp [judgeFrame]

theorem judgeFrame_fresh (frame : List Byte) (n : Nat) (exp : Byte) (tstat : TStat) (s : State) :
    (judgeFrame frame n exp tstat s).fresh = s.fresh := by
  simp [judgeFrame]

section
variable {frame : List Byte} {n : Nat} (hfull : IsFullFrame frame n) (exp : Byte) (tstat : TStat) (s : State)
include hfull

theorem exec_validateFrame_of_full :
    exec (.validateFrame frame exp tstat) s = .next (judgeFrame frame n exp tstat s) := by
  have hlen : frame.length = n + 5 := hfull.length
  have hbyte {off : Nat} (hoff : off < n + 5) : suppliedByte frame s.fresh off = frame.getD off 0#8 :=
    suppliedByte_of_lt_length (by rwa [hlen]) s.fresh
  obtain ⟨h, more, rfl, hdata, rfl⟩ := hfull.exists_cons
  have hcomplete : frameComplete (h :: more) = true := by
    rw [frameComplete_cons_iff, frameBytes_of_isData hdata, ← hlen, List.length_cons]
  have hpayload := map_suppliedByte_range' (frame := h :: more) (off := 3) (n := payBytes (kindOf h)) (by omega) s.fresh
  refine (execValidateFrame_of_data hdata hcomplete exp tstat s).trans (congrArg Host.Outcome.next ?_)
  simp only [validateData, suppliedFields, checksumReceived_hi, checksumReceived_lo, hpayload]
  rw [hbyte (by omega), hbyte (by omega), hbyte (by omega), hbyte (by omega)]
  rfl

theorem payload_length_of_full : ((frame.drop 3).take n).length = n := by
  rw [List.length_take, List.length_drop, hfull.length]
  omega

/-- R143: ACC is the checksum of the payload. -/
theorem judgeFrame_acc : (judgeFrame frame n exp tstat s).acc = crc16 ((frame.drop 3).take n) n := by
  calc (judgeFrame frame n exp tstat s).acc
      = crc16 ((frame.drop 3).take n) ((frame.drop 3).take n).length := crc16_acc _ _
    _ = crc16 ((frame.drop 3).take n) n := by rw [payload_length_of_full hfull]

/-- R147: the `CLR` and the `n` bytes of the payload. -/
theorem judgeFrame_steps : (judgeFrame frame n exp tstat s).steps = s.steps + n + 1 := by
  rw [judgeFrame, runCheck_steps, absorbAll_steps, clearStep_steps, classify_steps, payload_length_of_full hfull]
  omega

theorem header_of_full : frame.getD 0 0#8 = 0x01#8 ∨ frame.getD 0 0#8 = 0x02#8 :=
  hfull.header.imp And.left And.left

theorem judgeFrame_kind : (judgeFrame frame n exp tstat s).output.kind = if n = 128 then 1#3 else 2#3 := by
  have hkind : (judgeFrame frame n exp tstat s).output.kind = kindCode (kindOf (frame.getD 0 0#8)) := rfl
  obtain ⟨⟨hheader, rfl⟩ | ⟨hheader, rfl⟩, -⟩ := hfull
  · rw [hkind, hheader]; rfl
  · rw [hkind, hheader]; rfl

/-- R143: the conditions of `frame_ok` are those of `accept`. -/
theorem judgeFrame_accept : (judgeFrame frame n exp tstat s).output.accept = frameOk frame exp tstat := by
  have hacc := judgeFrame_acc hfull exp tstat s
  rw [Bool.eq_iff_iff, frameOk_iff hfull, ← hacc]
  exact accept_iff_conditions.trans (and_iff_right (header_of_full hfull))

end

/-- Settles O40: a full frame is judged by the `CHECK` of its fields, against the checksum of its payload. -/
theorem fullFrameIsJudged : Obligations.FullFrameIsJudged := by
  unfold Obligations.FullFrameIsJudged
  intro frame e tstat s n hheader hlen
  have hfull : IsFullFrame frame n := ⟨hheader, hlen⟩
  have hacc := judgeFrame_acc hfull e tstat s
  obtain ⟨huart, hnumber, hcmpl, hcrc, hhdr⟩ := runCheck_err_bits
    (s := absorbAll ((frame.drop 3).take n) (clearStep 0x00#8 (classify (frame.getD 0 0#8) s)))
  have hdata : isData (frame.getD 0 0#8) = true := isData_iff.mpr (header_of_full hfull)
  refine ⟨judgeFrame frame n e tstat s, exec_validateFrame_of_full hfull e tstat s, judgeFrame_accept hfull e tstat s,
    judgeFrame_kind hfull e tstat s, huart, hnumber, hcmpl, hcrc.trans ?_, hhdr.trans (congrArg not hdata), hacc,
    judgeFrame_steps hfull e tstat s, judgeFrame_queue .., judgeFrame_fresh ..⟩
  rw [← hacc]
  rfl

end Sys2Proof.Safety

/-! PROOFS. Built, control, short and long frames (spec/42_composite_ops.md R144 to R146). -/

namespace Sys2Proof.Safety

open Sys2Proof.Machine

/-! ### Built frames -/

/-- R144: the builder's second sequence byte is the complement of the first. -/
theorem complement_eq_sub (seq : Byte) : 255#8 - seq = ~~~seq :=
  BitVec.allOnes_sub_eq_not seq

section
variable (h seq : Byte) (payload : List Byte)

theorem mkFrame_length : (mkFrame h seq payload).length = payload.length + 5 := by
  simp [mkFrame]

theorem mkFrame_payload : ((mkFrame h seq payload).drop 3).take payload.length = payload :=
  List.take_left

/-- R144: the trailer is the payload's checksum, high byte first. -/
theorem mkFrame_trailer :
    ((mkFrame h seq payload).getD (payload.length + 3) 0#8 ++
      (mkFrame h seq payload).getD (payload.length + 4) 0#8 : Word) = crc16 payload payload.length := by
  have hhi : (mkFrame h seq payload).getD (payload.length + 3) 0#8 =
      (crc16 payload payload.length).extractLsb' 8 8 := by simp [mkFrame]
  have hlo : (mkFrame h seq payload).getD (payload.length + 4) 0#8 =
      (crc16 payload payload.length).extractLsb' 0 8 := by simp [mkFrame]
  rw [hhi, hlo, append_bytes]

end

theorem mkFrame_isFullFrame {h : Byte} {payload : List Byte}
    (hheader : h = 0x01#8 ∧ payload.length = 128 ∨ h = 0x02#8 ∧ payload.length = 1024) (seq : Byte) :
    IsFullFrame (mkFrame h seq payload) payload.length :=
  ⟨hheader, mkFrame_length h seq payload⟩

/-- Settles O43: a built frame meets the conditions of `frame_ok`, by which a full frame is judged. -/
theorem builtFrameIsAccepted : Obligations.BuiltFrameIsAccepted := by
  unfold Obligations.BuiltFrameIsAccepted
  intro h seq payload hheader
  have hfull := mkFrame_isFullFrame hheader seq
  have hok : frameOk (mkFrame h seq payload) seq 0b00#2 = true := by
    rw [frameOk_iff hfull, mkFrame_trailer, mkFrame_payload]
    exact ⟨rfl, rfl, complement_eq_sub seq, rfl⟩
  exact ⟨hok, fun s => ⟨_, exec_validateFrame_of_full hfull seq 0b00#2 s, (judgeFrame_accept hfull ..).trans hok⟩⟩

/-! ### Control frames -/

theorem isData_eq_false_iff {h : Byte} : isData h = false ↔ h ≠ 0x01#8 ∧ h ≠ 0x02#8 := by
  rw [← Bool.not_eq_true, isData_iff, not_or]

/-- Settles O41: the header's check sets the header's bit, whatever its other operands are. -/
theorem controlFrameLeavesAcc : Obligations.ControlFrameLeavesAcc := by
  unfold Obligations.ControlFrameLeavesAcc
  intro h more e tstat s hsoh hstx
  have hcontrol : isData h = false := isData_eq_false_iff.mpr ⟨hsoh, hstx⟩
  obtain ⟨-, -, -, -, hhdr⟩ := runCheck_err_bits (hdr := h) (s := classify h s)
  have hbit := hhdr.trans (congrArg not hcontrol)
  refine ⟨_, execValidateFrame_of_control hcontrol more e tstat s, rfl, rfl, ?_, hbit, runCheck_rejects .hdr hbit,
    rfl, rfl, rfl, rfl⟩
  change kindCode (kindOf h) = _
  rw [kindOf_eq, if_neg hsoh, if_neg hstx]
  split_ifs <;> rfl

/-! ### Frames whose status is not Ok -/

/-- R142: every validation of the bytes supplied ends in a `CHECK` with its own transport status. -/
theorem validateSupplied_eq_runCheck (frame : List Byte) (exp : Byte) (tstat : TStat) (s : State) :
    ∃ seq cmpl crcHi crcLo hdr before,
      validateSupplied frame exp tstat s = runCheck tstat seq cmpl exp crcHi crcLo hdr before := by
  simp only [validateSupplied]
  split
  · exact ⟨_, _, _, _, _, _, rfl⟩
  · exact ⟨_, _, _, _, _, _, rfl⟩

/-- R121, R146: a status other than Ok rejects, whatever bytes are supplied. -/
theorem validateSupplied_rejects {tstat : TStat} (hstatus : tstat ≠ 0b00#2) (frame : List Byte) (exp : Byte)
    (s : State) :
    (validateSupplied frame exp tstat s).output.err.getLsbD 0 = true ∧
      (validateSupplied frame exp tstat s).output.accept = false := by
  obtain ⟨seq, cmpl, crcHi, crcLo, hdr, before, hcheck⟩ := validateSupplied_eq_runCheck frame exp tstat s
  obtain ⟨huart, -, -, -, -⟩ := runCheck_err_bits (tstat := tstat) (s := before)
  have hbit := huart.trans (decide_eq_true hstatus)
  rw [hcheck]
  exact ⟨hbit, runCheck_rejects .uart hbit⟩

/-! ### Short frames whose status is Ok -/

/-- R146: the answer is a value or this refusal, no other. -/
def OkOrRefuses {α : Type} (r : Refusal) (x : Except Refusal α) : Prop := (∃ a, x = .ok a) ∨ x = .error r

section
variable {r : Refusal} {frame : List Byte} {tstat : TStat} {fresh : Nat}
  (hreads : ∀ off, OkOrRefuses r (memRead1 frame tstat fresh off))
include hreads

theorem memReadRun_okOrRefuses (n off : Nat) : OkOrRefuses r (memReadRun frame tstat fresh off n) := by
  induction n generalizing off with
  | zero => exact .inl ⟨[], rfl⟩
  | succ n ih =>
    rw [memReadRun]
    obtain ⟨b, hb⟩ | hb := hreads off
    · obtain ⟨bs, hbs⟩ | hbs := ih (off + 1)
      · rw [hb, hbs]; exact .inl ⟨_, rfl⟩
      · rw [hb, hbs]; exact .inr rfl
    · rw [hb]; exact .inr rfl

/-- R45: a read of two bytes of which the second is refused. -/
theorem memRead2_of_low_refused {off : Nat} (hlo : memRead1 frame tstat fresh (off + 1) = .error r) :
    memRead2 frame tstat fresh off = .error r := by
  rw [memRead2, hlo]
  obtain ⟨hi, hhi⟩ | hhi := hreads off
  · rw [hhi]
  · rw [hhi]

/-- R142: the fields of a frame of which the last byte is refused. -/
theorem dataFields_of_last_refused {n : Nat} (hlast : memRead1 frame tstat fresh (n + 4) = .error r) :
    dataFields frame tstat fresh n = .error r := by
  rw [dataFields, memRead2_of_low_refused hreads hlast]
  obtain ⟨payload, hpayload⟩ | hpayload := memReadRun_okOrRefuses hreads n Config.preLen
  · obtain ⟨seq, hseq⟩ | hseq := hreads 1
    · obtain ⟨cmpl, hcmpl⟩ | hcmpl := hreads 2
      · rw [hpayload, hseq, hcmpl]
      · rw [hpayload, hseq, hcmpl]
    · rw [hpayload, hseq]
  · rw [hpayload]

end

/-- R146: a byte beyond the frame's end, with status Ok. -/
theorem frameByte_of_length_le {frame : List Byte} {off : Nat} (h : frame.length ≤ off) (fresh : Nat) :
    frameByte frame 0b00#2 fresh off = .error (.frameTooShort frame.length) := by
  rw [frameByte, List.getElem?_eq_none h, if_pos rfl]

/-- R41: a data frame is read at every offset. -/
theorem memRead1_of_data {h : Byte} (hdata : isData h = true) (more : List Byte) (tstat : TStat) (fresh off : Nat) :
    memRead1 (h :: more) tstat fresh off = frameByte (h :: more) tstat fresh off := by
  have hheader : frameByte (h :: more) tstat fresh 0 = .ok h := rfl
  simp only [memRead1, hheader, hdata, if_true]
  split_ifs with hzero
  · rw [hzero, hheader]
  · rfl

theorem memRead1_okOrRefuses {h : Byte} (hdata : isData h = true) (more : List Byte) (fresh off : Nat) :
    OkOrRefuses (.frameTooShort (h :: more).length) (memRead1 (h :: more) 0b00#2 fresh off) := by
  rw [memRead1_of_data hdata]
  by_cases hoff : off < (h :: more).length
  · exact .inl ⟨_, frameByte_of_lt hoff 0b00#2 fresh⟩
  · exact .inr (frameByte_of_length_le (Nat.le_of_not_lt hoff) fresh)

/-- R146: a frame with bytes missing lacks its header, or is a data frame that lacks its last byte; with status Ok the
read of that byte refuses the whole validation (log 11). -/
theorem exec_validateFrame_of_short {frame : List Byte} (hshort : frameComplete frame = false) (exp : Byte)
    (s : State) :
    exec (.validateFrame frame exp 0b00#2) s = .refused (.frameTooShort frame.length) := by
  cases frame with
  | nil => rfl
  | cons h more =>
    have hincomplete : ¬frameComplete (h :: more) = true := Bool.eq_false_iff.mp hshort
    have hdata : isData h = true := by
      by_contra hcontrol
      exact hincomplete (frameComplete_of_control (Bool.eq_false_iff.mpr hcontrol) more)
    rw [frameComplete_cons_iff, frameBytes_of_isData hdata] at hincomplete
    have hlast : memRead1 (h :: more) 0b00#2 s.fresh (payBytes (kindOf h) + 4) =
        .error (.frameTooShort (h :: more).length) := by
      rw [memRead1_of_data hdata]
      exact frameByte_of_length_le (by rw [List.length_cons]; omega) s.fresh
    have hfields := dataFields_of_last_refused (memRead1_okOrRefuses hdata more s.fresh) hlast
    simp only [exec, execValidateFrame, memRead1_header, hdata, if_true, payLen_toNat, hfields]

/-! ### Bytes beyond the frame -/

/-- R146: the bytes that a frame has are supplied alike whatever follows them. -/
theorem suppliedByte_append {frame : List Byte} {off : Nat} (h : off < frame.length) (more : List Byte)
    (fresh : Nat) : suppliedByte (frame ++ more) fresh off = suppliedByte frame fresh off :=
  List.getD_append frame more _ off h

theorem suppliedFields_append {frame : List Byte} {n : Nat} (h : n + 5 ≤ frame.length) (more : List Byte)
    (fresh : Nat) : suppliedFields (frame ++ more) fresh n = suppliedFields frame fresh n := by
  have hbyte {off : Nat} (hoff : off < n + 5) :
      suppliedByte (frame ++ more) fresh off = suppliedByte frame fresh off :=
    suppliedByte_append (by omega) more fresh
  have hpayload : (List.range' 3 n).map (suppliedByte (frame ++ more) fresh) =
      (List.range' 3 n).map (suppliedByte frame fresh) :=
    List.map_congr_left fun off hoff => hbyte (by rw [List.mem_range'_1] at hoff; omega)
  rw [suppliedFields, suppliedFields, hpayload, hbyte (by omega), hbyte (by omega), hbyte (by omega),
    hbyte (by omega)]

theorem exec_validateFrame_append {frame : List Byte} (hcomplete : frameComplete frame = true) (more : List Byte)
    (exp : Byte) (tstat : TStat) (s : State) :
    exec (.validateFrame (frame ++ more) exp tstat) s = exec (.validateFrame frame exp tstat) s := by
  cases frame with
  | nil => cases hcomplete
  | cons h rest =>
    cases hdata : isData h with
    | false =>
      exact (execValidateFrame_of_control hdata (rest ++ more) exp tstat s).trans
        (execValidateFrame_of_control hdata rest exp tstat s).symm
    | true =>
      have hlonger : frameComplete (h :: (rest ++ more)) = true := by
        rw [frameComplete_cons_iff] at hcomplete ⊢
        rw [List.length_append]
        omega
      have hfields := suppliedFields_append (length_of_complete_data hdata hcomplete) more s.fresh
      calc execValidateFrame (h :: (rest ++ more)) exp tstat s
          = .next (validateData (suppliedFields (h :: (rest ++ more)) s.fresh (payBytes (kindOf h))) h exp tstat
              (classify h s)) := execValidateFrame_of_data hdata hlonger exp tstat s
        _ = .next (validateData (suppliedFields (h :: rest) s.fresh (payBytes (kindOf h))) h exp tstat
              (classify h s)) := by rw [← List.cons_append, hfields]
        _ = execValidateFrame (h :: rest) exp tstat s :=
          (execValidateFrame_of_data hdata hcomplete exp tstat s).symm

/-- Settles O42: a bad status rejects whatever bytes are supplied; of a short frame the last byte is refused; and a
complete frame supplies the same bytes whatever follows it. -/
theorem shortAndLongFrames : Obligations.ShortAndLongFrames := by
  unfold Obligations.ShortAndLongFrames
  refine ⟨fun frame e tstat s hstatus => ?_, fun frame e s hshort => exec_validateFrame_of_short hshort e s,
    fun frame more e tstat s hcomplete => exec_validateFrame_append hcomplete more e tstat s⟩
  have hw : (Instr.validateFrame frame e tstat).wellFormed = true := by simp [Instr.wellFormed, hstatus]
  obtain ⟨fresh, hexec⟩ := execValidateFrame_of_wellFormed hw s
  obtain ⟨hbit, haccept⟩ := validateSupplied_rejects hstatus frame e s
  exact ⟨_, hexec, haccept, validateSupplied_queue frame e tstat s, fun _ => hbit⟩

/-! ### What is refused -/

/-- R146: a validation that is refused is not well-formed: its status is Ok and bytes are missing. -/
theorem execValidateFrame_refused {frame : List Byte} {exp : Byte} {tstat : TStat} {s : State} {r : Refusal}
    (h : execValidateFrame frame exp tstat s = .refused r) : tstat = 0b00#2 ∧ frameComplete frame = false := by
  have hill : ¬(Instr.validateFrame frame exp tstat).wellFormed = true := fun hw => by
    obtain ⟨fresh, hexec⟩ := execValidateFrame_of_wellFormed hw s
    cases hexec.symm.trans h
  simpa [Instr.wellFormed] using hill

/-- Settles O54: every other operation answers a state or the fault, and a refused frame is short with status Ok. -/
theorem onlyShortFramesAreRefused : Obligations.OnlyShortFramesAreRefused := by
  unfold Obligations.OnlyShortFramesAreRefused
  intro i s r hrefused
  cases i with
  | validateFrame frame e tstat =>
    obtain ⟨rfl, hshort⟩ := execValidateFrame_refused hrefused
    have hr : Host.Outcome.refused (.frameTooShort frame.length) = .refused r :=
      (exec_validateFrame_of_short hshort e s).symm.trans hrefused
    cases hr
    exact ⟨frame, e, rfl, hshort, rfl⟩
  | _ => cases hrefused

end Sys2Proof.Safety

/-! PROOFS. The host's order of driving a data frame (spec/48_host_context.md R168): the state it ends in, and its verdict
as that of the frame driven. -/

namespace Sys2Proof.Safety

open Sys2Proof.Machine

/-! ### The state the host's order ends in -/

/-- R141: one `BYTE` for each byte of a buffer is the buffer's steps. -/
theorem runInstrs_map_byte (bs : List Byte) (s : State) : runInstrs (bs.map .byte) s = .next (absorbAll bs s) := by
  induction bs generalizing s with
  | nil => rfl
  | cons b bs ih => exact ih (absorbStep b s)

/-- R140: ACC after a `CLR`, whatever its level on `din`, and a buffer's steps is the buffer's checksum. -/
theorem absorbAll_clearStep_acc (buf : List Byte) (din : Byte) (s : State) :
    (absorbAll buf (clearStep din s)).acc = crc16 buf buf.length := by
  rw [absorbAll_acc, clearStep_acc, crc16_length, Config.crcInit]

/-- R168: the header is classified, ACC cleared, the payload absorbed, and then the fields are checked. The `CLR` finds
on `din` what the host last drove there. -/
theorem runInstrs_hostSequence (h seq cmpl exp crcHi crcLo : Byte) (tstat : TStat) (payload : List Byte) (s : State) :
    runInstrs (hostSequence h seq cmpl exp crcHi crcLo tstat payload) s =
      .next (runCheck tstat seq cmpl exp crcHi crcLo h
        (absorbAll payload (clearStep s.input.din (classify h s)))) := by
  have habsorbed : runInstrs (decodeHeader h :: .clr :: payload.map .byte) s =
      .next (absorbAll payload (clearStep s.input.din (classify h s))) := by
    rw [runInstrs_cons (exec_decodeHeader h s), runInstrs_cons (t := clearStep s.input.din (classify h s)) rfl,
      runInstrs_map_byte]
  rw [hostSequence, runInstrs_append habsorbed]
  rfl

/-! ### The frame driven -/

/-- R168: the frame that the bytes driven make. -/
def drivenFrame (h seq cmpl crcHi crcLo : Byte) (payload : List Byte) : List Byte :=
  [h, seq, cmpl] ++ payload ++ [crcHi, crcLo]

theorem drivenFrame_isFullFrame {h : Byte} {payload : List Byte}
    (hheader : h = 0x01#8 ∧ payload.length = 128 ∨ h = 0x02#8 ∧ payload.length = 1024)
    (seq cmpl crcHi crcLo : Byte) : IsFullFrame (drivenFrame h seq cmpl crcHi crcLo payload) payload.length :=
  ⟨hheader, by simp [drivenFrame]⟩

/-- R143: `frame_ok` of the frame driven is its conditions on the bytes driven. -/
theorem frameOk_drivenFrame_iff {h : Byte} {payload : List Byte}
    (hheader : h = 0x01#8 ∧ payload.length = 128 ∨ h = 0x02#8 ∧ payload.length = 1024)
    {seq cmpl crcHi crcLo exp : Byte} {tstat : TStat} :
    frameOk (drivenFrame h seq cmpl crcHi crcLo payload) exp tstat = true ↔
      tstat = 0b00#2 ∧ seq = exp ∧ cmpl = ~~~seq ∧ (crcHi ++ crcLo : Word) = crc16 payload payload.length := by
  have hhi : (drivenFrame h seq cmpl crcHi crcLo payload).getD (payload.length + 3) 0#8 = crcHi := by
    simp [drivenFrame]
  have hlo : (drivenFrame h seq cmpl crcHi crcLo payload).getD (payload.length + 4) 0#8 = crcLo := by
    simp [drivenFrame]
  have hpayload : ((drivenFrame h seq cmpl crcHi crcLo payload).drop 3).take payload.length = payload :=
    List.take_left
  rw [frameOk_iff (drivenFrame_isFullFrame hheader ..), hhi, hlo, hpayload]
  rfl

/-- Settles O45: the conditions of `accept` on the `CHECK` that ends the host's order, against the payload's checksum
in ACC, are those of `frame_ok` on the frame driven. -/
theorem hostSequenceGivesTheVerdict : Obligations.HostSequenceGivesTheVerdict := by
  unfold Obligations.HostSequenceGivesTheVerdict
  intro h seq cmpl exp crcHi crcLo tstat payload s hheader
  refine ⟨_, runInstrs_hostSequence .., Bool.eq_iff_iff.mpr ?_⟩
  have hdata : h = 0x01#8 ∨ h = 0x02#8 := hheader.imp And.left And.left
  have hacc := absorbAll_clearStep_acc payload s.input.din (classify h s)
  refine Iff.trans ?_ (frameOk_drivenFrame_iff hheader).symm
  rw [← hacc]
  exact accept_iff_conditions.trans (and_iff_right hdata)

end Sys2Proof.Safety

/-! PROOFS. The fault and the rejection flags (spec/60_exceptions.md R200 to R208): what raises the fault, how the
hardware goes on from the state it holds, and operands for each value of `err`. -/

namespace Sys2Proof.Safety

open Sys2Proof.Machine

/-! ### What raises the fault -/

/-- R146: a validation completes, or is refused for the bytes missing. -/
theorem exec_validateFrame_ne_fault (frame : List Byte) (exp : Byte) (tstat : TStat) (s : State) (r : Fault) :
    exec (.validateFrame frame exp tstat) s ≠ .fault r := by
  intro hfault
  by_cases hw : (Instr.validateFrame frame exp tstat).wellFormed = true
  · obtain ⟨fresh, hexec⟩ := execValidateFrame_of_wellFormed hw s
    cases hexec.symm.trans hfault
  · obtain ⟨rfl, hshort⟩ : tstat = 0b00#2 ∧ frameComplete frame = false := by simpa [Instr.wellFormed] using hw
    cases (exec_validateFrame_of_short hshort exp s).symm.trans hfault

/-- R200: of the operations only the reserved command faults. -/
theorem eq_ill_of_exec_fault {i : Instr} {s : State} {r : Fault} (hfault : exec i s = .fault r) : i = .ill := by
  cases i with
  | ill => rfl
  | validateFrame frame exp tstat => exact absurd hfault (exec_validateFrame_ne_fault frame exp tstat s r)
  | _ => cases hfault

/-- R65, R97: what decodes to the reserved command is reserved on the ports, as any other command completes. -/
theorem illOf_of_decodeCommand_eq_ill {i : StepInput} (h : decodeCommand i.rst i.op i.din = .ill) :
    illOf i = true := by
  by_contra hlegal
  have hexec := exec_decodeCommand { State.reset with input := i }
  rw [if_neg hlegal, h] at hexec
  cases hexec

/-- R65, R97: the presentations of a reserved command, as a command word or on the ports themselves. -/
theorem presented_of_decode_eq_ill {p : Presented} (hp : decode p = .ill) :
    (∃ din : Byte, p = .command false (0b11#2 ++ din)) ∨ ∃ i, p = .inputs i ∧ illOf i = true := by
  cases p with
  | command rst cw =>
    have hill : illOf (commandInput rst cw idleInput) = true := illOf_of_decodeCommand_eq_ill hp
    obtain ⟨rfl, hop⟩ : rst = false ∧ commandOp cw = 0b11#2 := illOf_iff.mp hill
    refine .inl ⟨commandDin cw, ?_⟩
    rw [← hop, ← commandWord, commandWord_fields]
  | inputs i => exact .inr ⟨i, rfl, illOf_of_decodeCommand_eq_ill hp⟩
  | header h => cases (congrArg encode hp).symm.trans (encode_decodeHeader h)
  | _ => cases hp

theorem step_inputs_of_illOf {s : State} {i : StepInput} {rest : List Presented} (hq : s.queue = .inputs i :: rest)
    (hill : illOf i = true) :
    step s = .fault (.illegalCommand (i.op ++ i.din) s.steps (commitStep s.acc { s with input := i, queue := rest })) :=
  (step_inputs hq).trans (if_pos hill)

/-- R97, R200: a presentation of a reserved command faults, with the word presented. -/
theorem step_of_decode_eq_ill {s : State} {p : Presented} {rest : List Presented} (hq : s.queue = p :: rest)
    (hp : decode p = .ill) :
    ∃ (cw : CommandWord) (held : State), step s = .fault (.illegalCommand cw s.steps held) ∧
      (p = .command false cw ∨ ∃ i : StepInput, p = .inputs i ∧ i.rst = false ∧ cw = i.op ++ i.din) ∧
      cw.extractLsb' 8 2 = 0b11#2 ∧ held.acc = s.acc ∧ held.output.ill = true := by
  obtain ⟨din, rfl⟩ | ⟨i, rfl, hill⟩ := presented_of_decode_eq_ill hp
  · obtain ⟨-, hword, -, -⟩ := reservedCommandFaults
    obtain ⟨held, hstep, hacc, hread, -, -⟩ := hword s din rest hq
    exact ⟨_, held, hstep, .inl rfl, commandOp_commandWord 0b11#2 din, hacc, hread⟩
  · obtain ⟨hrst, hop⟩ := illOf_iff.mp hill
    exact ⟨_, _, step_inputs_of_illOf hq hill, .inr ⟨i, rfl, hrst, rfl⟩,
      (commandOp_commandWord i.op i.din).trans hop, rfl, hill⟩

/-! ### Good runs -/

theorem goodRun_cons_iff {i : Instr} {is : List Instr} {s : State} :
    GoodRun (i :: is) s ↔ ∃ t, exec i s = .next t ∧ GoodRun is t := by
  constructor
  · rintro ⟨u, hrun⟩
    rw [runInstrs] at hrun
    split at hrun
    next t hexec => exact ⟨t, hexec, u, hrun⟩
    · cases hrun
    · cases hrun
  · rintro ⟨t, hexec, u, hrun⟩
    exact ⟨u, (runInstrs_cons hexec is).trans hrun⟩

/-- R200: the run ends at the first reserved command at the latest. -/
theorem ill_notMem_of_goodRun {is : List Instr} {s : State} (h : GoodRun is s) : .ill ∉ is := by
  induction is generalizing s with
  | nil => exact List.not_mem_nil
  | cons i is ih =>
    obtain ⟨t, hexec, hrest⟩ := goodRun_cons_iff.mp h
    have hi : .ill ≠ i := by
      rintro rfl
      exact raiseIllegalCommand_ne_next _ t hexec
    exact List.not_mem_cons_of_ne_of_not_mem hi (ih hrest)

/-- Settles O53: a step that faults ran the reserved command, and every presentation of that faults. -/
theorem onlyReservedCommandsFault : Obligations.OnlyReservedCommandsFault := by
  unfold Obligations.OnlyReservedCommandsFault
  refine ⟨fun s r hfault => ?_, fun s p rest hq hp => ?_, fun is s hill hgood => ill_notMem_of_goodRun hgood hill⟩
  · cases hq : s.queue with
    | nil => cases (step_of_queue_nil hq).symm.trans hfault
    | cons p rest =>
      have hp : decode p = .ill := eq_ill_of_exec_fault ((step_of_queue_cons hq).symm.trans hfault)
      obtain ⟨cw, held, hstep, hword⟩ := step_of_decode_eq_ill hq hp
      cases hstep.symm.trans hfault
      exact ⟨cw, held, p, rest, rfl, rfl, hword⟩
  · obtain ⟨cw, held, hstep, -⟩ := step_of_decode_eq_ill hq hp
    exact ⟨_, hstep⟩

/-- Settles O16: each command's own step, from the ACC held; and a run goes no further than the fault. -/
theorem legalCommandAfterReserved : Obligations.LegalCommandAfterReserved := by
  unfold Obligations.LegalCommandAfterReserved
  refine ⟨fun s held cw n hfault => ?_, fun _ _ => rfl⟩
  have hacc : held.acc = s.acc := by
    cases hfault
    rfl
  exact ⟨⟨_, rfl, hacc, rfl⟩, ⟨_, rfl, rfl, rfl⟩, fun b => ⟨absorbStep b held, rfl, by simp [hacc], rfl⟩,
    ⟨_, rfl, rfl, rfl⟩⟩

/-! ### The checks read in an engine step -/

/-- R124: the checksum's bit is its comparison with the ACC that the outputs are read from. -/
theorem outputs_err_crc (acc : Word) (i : StepInput) :
    (outputs acc i).err.getLsbD 3 = decide (i.crcHi ++ i.crcLo ≠ acc) := by
  obtain ⟨-, -, -, hcrc, -⟩ := causeHolds_eq acc i
  exact (errBits_causeBit acc i .crc).trans hcrc

/-- Settles O37: completed or faulted, the step reads the outputs from the ACC before it. -/
theorem checkInTheStepSeesOldAcc : Obligations.CheckInTheStepSeesOldAcc := by
  unfold Obligations.CheckInTheStepSeesOldAcc
  intro s i rest hq
  refine ⟨fun t hstep => ?_, fun cw n held hfault => ?_, fun hrst => ?_⟩
  · obtain ⟨-, rfl⟩ := step_inputs_next hq hstep
    exact ⟨rfl, outputs_err_crc s.acc i⟩
  · rw [step_inputs hq] at hfault
    split at hfault
    · cases hfault
      exact ⟨rfl, outputs_err_crc s.acc i⟩
    · cases hfault
  · have hill : illOf i = false := by simp [illOf, hrst]
    refine ⟨_, (step_inputs hq).trans (if_neg (Bool.eq_false_iff.mp hill)), hill, ?_⟩
    simp [nextAcc_eq, hrst]

/-! ### Every value of `err` -/

/-- R204: the causes reported are those whose bit is set. -/
theorem mem_causesOf_iff {err : BitVec 5} {c : RejectionCause} :
    c ∈ causesOf err ↔ err.getLsbD (causeBit c) = true := by
  have hall : c ∈ [RejectionCause.uart, .number, .cmpl, .crc, .hdr] := by cases c <;> decide
  rw [causesOf, List.mem_filter, and_iff_right hall]

/-- The value itself, or its complement where it is to differ. -/
def complementIf {n : Nat} (differ : Bool) (v : BitVec n) : BitVec n := if differ then ~~~v else v

theorem decide_complementIf_ne {n : Nat} (hn : 0 < n) (differ : Bool) (v : BitVec n) :
    decide (complementIf differ v ≠ v) = differ := by
  cases differ with
  | false => exact decide_eq_false (not_not_intro rfl)
  | true => exact decide_eq_true (BitVec.not_self_ne hn)

/-- R121 to R125: operands that meet each condition of `accept` at this ACC, but for those whose bit of `e` is set. -/
def operandsWithErr (acc : Word) (e : BitVec 5) (i : StepInput) : StepInput :=
  { i with
    tstat := complementIf (e.getLsbD 0) 0b00#2
    seq := complementIf (e.getLsbD 1) i.expSeq
    cmpl := complementIf (e.getLsbD 2) (~~~complementIf (e.getLsbD 1) i.expSeq)
    crcHi := (complementIf (e.getLsbD 3) acc).extractLsb' 8 8
    crcLo := (complementIf (e.getLsbD 3) acc).extractLsb' 0 8
    hdr := complementIf (e.getLsbD 4) 0x01#8 }

theorem errBits_operandsWithErr (acc : Word) (e : BitVec 5) (i : StepInput) :
    errBits acc (operandsWithErr acc e i) = e := by
  obtain ⟨huart, hnumber, hcmpl, hcrc, hhdr⟩ := causeHolds_eq acc (operandsWithErr acc e i)
  refine (eq_errBits_iff.mpr fun c => Eq.symm ?_).symm
  cases c with
  | uart => exact huart.trans (decide_complementIf_ne (by decide) ..)
  | number => exact hnumber.trans (decide_complementIf_ne (by decide) ..)
  | cmpl => exact hcmpl.trans (decide_complementIf_ne (by decide) ..)
  | crc =>
    have hword : (operandsWithErr acc e i).crcHi ++ (operandsWithErr acc e i).crcLo =
        complementIf (e.getLsbD 3) acc := append_bytes _
    rw [hcrc, hword]
    exact decide_complementIf_ne (by decide) ..
  | hdr =>
    have hdiffers : ∀ differ,
        (!(complementIf differ 0x01#8 == 0x01#8 || complementIf differ 0x01#8 == 0x02#8)) = differ := by decide
    exact hhdr.trans (hdiffers _)

/-- Settles O34: the operands built from the value give it, and a bit that is set is a cause that holds. -/
theorem everyErrorVectorOccurs : Obligations.EveryErrorVectorOccurs := by
  unfold Obligations.EveryErrorVectorOccurs
  refine ⟨fun s e => ?_, fun acc i c => ?_⟩
  · exact ⟨_, _, _, _, _, _, _, _, rfl, errBits_operandsWithErr s.acc e s.input⟩
  · rw [mem_causesOf_iff, outputs_err, errBits_causeBit]

end Sys2Proof.Safety

/-! PROOFS. Reset and hazards (spec/70 R230 to R244): the `Reset` step, which operations complete, a missing `CLR`, an
absorbed trailer, and what a launched run forgets of the ACC before it. -/

namespace Sys2Proof.Safety

open Sys2Proof.Machine

/-! ### `Reset` and completion -/

/-- R230: with `rst` at 1 the command on the other two ports is a `Reset`. -/
@[simp] theorem decodeCommand_rst (op : Op) (din : Byte) : decodeCommand true op din = .reset := rfl

/-- R230: the `Reset` step, from every state. -/
theorem exec_reset (s : State) : exec .reset s = .next (commitStep 0x0000#16 (driveReset s)) := rfl

/-- R95: the `CLR` step, from every state. -/
theorem exec_clr (s : State) : exec .clr s = .next (clearStep s.input.din s) := rfl

/-- R230: a `Reset` is never the reserved command. -/
theorem illOf_driveReset (s : State) : illOf (driveReset s).input = false := rfl

/-- Settles O17: the step is `exec_reset`, and `rst` alone decides that a presented step is it. -/
theorem resetClearsAcc : Obligations.ResetClearsAcc := by
  unfold Obligations.ResetClearsAcc
  refine ⟨fun s => ⟨_, exec_reset s, commitStep_acc _ _, illOf_driveReset s, rfl⟩, fun cw => ?_, fun i hrst => ?_,
    fun s => ⟨_, _, exec_reset s, exec_clr s, rfl⟩⟩
  · rw [decode, decodeCommand_rst]
  · rw [decode, hrst, decodeCommand_rst]

/-- Settles O51: both steps clear any ACC, that of power-up among them. -/
theorem powerUpIsCleared : Obligations.PowerUpIsCleared := by
  unfold Obligations.PowerUpIsCleared
  exact ⟨⟨_, exec_reset _, commitStep_acc _ _⟩, ⟨_, exec_clr _, clearStep_acc _ _⟩⟩

/-- Settles O52: only a validation reads what may be missing, and a well-formed one reads all its bytes. -/
theorem everyLegalOperationCompletes : Obligations.EveryLegalOperationCompletes := by
  unfold Obligations.EveryLegalOperationCompletes
  intro i s hw hill
  cases i with
  | ill => exact absurd rfl hill
  | validateFrame frame exp tstat =>
    obtain ⟨fresh, hexec⟩ := execValidateFrame_of_wellFormed hw s
    exact ⟨_, hexec⟩
  | _ => exact ⟨_, rfl⟩

/-! ### A missing `CLR` and an absorbed trailer -/

/-- R124: `CHECK` compares the received checksum with the ACC it finds. -/
theorem runCheck_err_crc {tstat : TStat} {seq cmpl expSeq crcHi crcLo hdr : Byte} {s : State} :
    (runCheck tstat seq cmpl expSeq crcHi crcLo hdr s).output.err.getLsbD 3 = decide (crcHi ++ crcLo ≠ s.acc) :=
  outputs_err_crc _ _

/-- Settles O46: the second buffer extends the checksum of the first, and that is the ACC which `CHECK` finds. -/
theorem missingClearJoinsBuffers : Obligations.MissingClearJoinsBuffers := by
  unfold Obligations.MissingClearJoinsBuffers
  intro a b tstat seq cmpl expSeq crcHi crcLo hdr s
  have hacc : (absorbAll b (absorbAll a (clearStep 0x00#8 s))).acc = crc16 (a ++ b) (a ++ b).length :=
    absorbAll_holdsChecksum (crc16_acc a s) b
  exact ⟨runCheck tstat seq cmpl expSeq crcHi crcLo hdr (absorbAll b (absorbAll a (clearStep 0x00#8 s))), rfl, hacc,
    by rw [runCheck_err_crc, hacc]⟩

/-- R101: two steps with ACC's own bytes, the high one first, clear it. -/
theorem absorbAll_own_bytes_acc {s : State} {a : Word} (ha : s.acc = a) :
    (absorbAll [a.extractLsb' 8 8, a.extractLsb' 0 8] s).acc = 0x0000#16 := by
  rw [absorbAll_acc, ha, crcFold_own_bytes]

/-- R124, R126: a checksum other than ACC, received in its two bytes, sets its bit and rejects. -/
theorem runCheck_rejects_checksum {tstat : TStat} {seq cmpl expSeq hdr : Byte} {s : State} {a : Word} (h : a ≠ s.acc) :
    let t := runCheck tstat seq cmpl expSeq (a.extractLsb' 8 8) (a.extractLsb' 0 8) hdr s
    t.output.err.getLsbD 3 = true ∧ t.output.accept = false := by
  have hbit := (runCheck_err_crc (tstat := tstat) (seq := seq) (cmpl := cmpl) (expSeq := expSeq) (hdr := hdr)).trans
    (decide_eq_true ((append_bytes a).symm ▸ h))
  exact ⟨hbit, runCheck_rejects .crc hbit⟩

/-- Settles O47: the trailer is the checksum's own bytes and clears it, so that `CHECK` compares the checksum with
0x0000. -/
theorem absorbedTrailerSpoilsTheCheck : Obligations.AbsorbedTrailerSpoilsTheCheck := by
  unfold Obligations.AbsorbedTrailerSpoilsTheCheck
  intro a tstat seq cmpl expSeq hdr s
  have hacc := absorbAll_own_bytes_acc (crc16_acc a s)
  refine ⟨runCheck tstat seq cmpl expSeq _ _ hdr (absorbAll [_, _] (absorbAll a (clearStep 0x00#8 s))), rfl, hacc,
    fun hnonzero => runCheck_rejects_checksum ?_⟩
  rwa [hacc]

/-! ### Launched runs -/

/-- R27: a run in which some operation reads the outputs does not depend on the reading before it. -/
theorem runInstrs_output {is : List Instr} (h : ∃ j ∈ is, j ≠ .bytes []) (s : State) (o : StepOutput) :
    runInstrs is { s with output := o } = runInstrs is s := by
  induction is with
  | nil => simp at h
  | cons i is ih =>
    by_cases hi : i = .bytes []
    · subst hi
      have hrest : ∃ j ∈ is, j ≠ .bytes [] := by simpa using h
      exact ih hrest
    · rw [runInstrs, exec_output hi, runInstrs]

/-- R141: a run of `BYTES` of no byte does nothing (log 12). -/
theorem runInstrs_of_forall_bytes_nil {is : List Instr} (h : ∀ j ∈ is, j = .bytes []) (s : State) :
    runInstrs is s = .next s := by
  induction is with
  | nil => rfl
  | cons i is ih =>
    obtain ⟨rfl, his⟩ := List.forall_mem_cons.mp h
    exact ih his

/-- R95, R140, R230: the operation that launches a run clears ACC; of the ACC before it there remains at most what was
read, and of a `CRC16` with bytes not even that. -/
theorem exec_launch {i : Instr} {is : List Instr} (hlaunch : launched (i :: is) = true) (s : State) (a : Word) :
    ∃ t o, exec i s = .next t ∧ exec i { s with acc := a } = .next { t with output := o } := by
  cases i with
  | reset => exact ⟨_, _, exec_reset s, rfl⟩
  | clr => exact ⟨_, _, exec_clr s, rfl⟩
  | crc16 buf =>
    cases buf with
    | nil => exact ⟨clearStep 0x00#8 s, _, rfl, rfl⟩
    | cons b bs => exact ⟨absorbAll (b :: bs) (clearStep 0x00#8 s), _, rfl, rfl⟩
  | _ => cases hlaunch

/-- Settles O48: after the launch the two runs differ in the last reading only, which the first operation that reads
makes anew, and which is all that remains where none does. -/
theorem launchedRunsForgetAcc : Obligations.LaunchedRunsForgetAcc := by
  unfold Obligations.LaunchedRunsForgetAcc
  intro is s a hlaunch
  cases is with
  | nil => cases hlaunch
  | cons i is =>
    obtain ⟨u, o, hexec, hexec'⟩ := exec_launch hlaunch s a
    have hforget (h : ∃ j ∈ is, j ≠ .bytes []) :
        runInstrs (i :: is) { s with acc := a } = runInstrs (i :: is) s := by
      rw [runInstrs_cons hexec, runInstrs_cons hexec', runInstrs_output h]
    refine ⟨fun t hrun => ?_, hforget⟩
    by_cases hreads : ∃ j ∈ is, j ≠ .bytes []
    · exact ⟨t, (hforget hreads).trans hrun, rfl⟩
    · have hsilent : ∀ j ∈ is, j = .bytes [] := by simpa using hreads
      rw [runInstrs_cons hexec, runInstrs_of_forall_bytes_nil hsilent] at hrun
      cases hrun
      exact ⟨_, by rw [runInstrs_cons hexec', runInstrs_of_forall_bytes_nil hsilent], rfl⟩

end Sys2Proof.Safety

/-! PROOFS. The round and the byte as bijections (spec/95 section 2.1), what a table word or nothing presented makes the
next step do (log 1, log 2, log 13), and the ports after reset (log 3, log 4). -/

namespace Sys2Proof.Safety

open Sys2Proof.Machine

/-- Settles O20: the round and the byte lose nothing of ACC, and there are finitely many words. -/
theorem crcRoundIsBijective : Obligations.CrcRoundIsBijective := by
  unfold Obligations.CrcRoundIsBijective
  exact ⟨crcRound_injective.bijective_of_finite, fun b => (crcByte_injective_acc b).bijective_of_finite⟩

/-! ### The next presentation -/

theorem decodeTableWord_eq_some_iff {nbits w : Nat} {i : Instr} :
    decodeTableWord nbits w = some i ↔ ∃ p, presentTableWord nbits w = .ok p ∧ decode p = i := by
  unfold decodeTableWord
  cases presentTableWord nbits w <;> simp

theorem withFetchWord_of_present {nbits w : Nat} {p : Presented} (h : presentTableWord nbits w = .ok p) (s : State) :
    s.withFetchWord nbits w = { s with queue := p :: s.queue } := by
  simp only [State.withFetchWord, h]

/-- Settles O7: the word is placed first in the queue, and the step takes it off again. -/
theorem fetchWordRunsNext : Obligations.FetchWordRunsNext := by
  unfold Obligations.FetchWordRunsNext
  intro s nbits w i hdecode
  obtain ⟨p, hpresent, rfl⟩ := decodeTableWord_eq_some_iff.mp hdecode
  refine ⟨p, rfl, ?_⟩
  rw [withFetchWord_of_present hpresent, step_of_queue_cons rfl]

/-- Settles O8. -/
theorem noPresentationNoStep : Obligations.NoPresentationNoStep := by
  unfold Obligations.NoPresentationNoStep
  exact fun _ hq => step_of_queue_nil hq

/-! ### The ports after reset -/

/-- The ports at 0 are a `NOP`, and the outputs at reset are read from them. -/
theorem reset_readingCurrent : ReadingCurrent State.reset :=
  ⟨rfl, rfl⟩

/-- Settles O56: the reading of the reset state is current. -/
theorem portsAgreeAtReset : Obligations.PortsAgreeAtReset := by
  unfold Obligations.PortsAgreeAtReset
  exact portsAgree_iff.mpr reset_readingCurrent

end Sys2Proof.Safety
